-- ==== Sys2Proof/Word.lean ====
section
/-! DEFINITION. The word types of SHA256-CORE: the 32-bit word (R8, R9), the byte of the host's
messages (R404) and the 39-bit transaction word T (R300). -/

namespace Sys2Proof

/-- A word: "an unsigned 32-bit value in 0..2^32-1" (R9). `+` on it is addition modulo 2^32 (R10, R500). -/
abbrev Word := BitVec 32

/-- A byte of the host's message or digest (R14, R404, R1000). -/
abbrev Byte := BitVec 8

/-- Format T, the transaction word `{we, addr[5:0], wdata[31:0]}` of 39 bits (R300). -/
abbrev TWord := BitVec 39

/-- The word index of a register slot, the 6-bit input `addr` (R200, R202). -/
abbrev RegAddr := BitVec 6

end Sys2Proof
end

