-- ==== Sys2Proof/Machine/Constants.lean ====
section
/-! DEFINITION. The block's read-only constants: "two read-only constant tables, not state" (R109) and the
identity words (R110). -/

namespace Sys2Proof.Machine

/-- ID, the ASCII bytes "S256" (R3, R900). -/
def idWord : Word := 0x53323536

/-- VERSION, major 1, minor 0 (R3, R901). -/
def versionWord : Word := 0x00010000

/-- IV[0..7], the initial hash value (R520). -/
def iv : Vector Word 8 :=
  #v[0x6A09E667, 0xBB67AE85, 0x3C6EF372, 0xA54FF53A, 0x510E527F, 0x9B05688C, 0x1F83D9AB, 0x5BE0CD19]

/-- Row 0 of the table of R521. -/
def kRow0 : List Word :=
  [0x428A2F98, 0x71374491, 0xB5C0FBCF, 0xE9B5DBA5, 0x3956C25B, 0x59F111F1, 0x923F82A4, 0xAB1C5ED5]
/-- Row 8 of the table of R521. -/
def kRow8 : List Word :=
  [0xD807AA98, 0x12835B01, 0x243185BE, 0x550C7DC3, 0x72BE5D74, 0x80DEB1FE, 0x9BDC06A7, 0xC19BF174]
/-- Row 16 of the table of R521. -/
def kRow16 : List Word :=
  [0xE49B69C1, 0xEFBE4786, 0x0FC19DC6, 0x240CA1CC, 0x2DE92C6F, 0x4A7484AA, 0x5CB0A9DC, 0x76F988DA]
/-- Row 24 of the table of R521. -/
def kRow24 : List Word :=
  [0x983E5152, 0xA831C66D, 0xB00327C8, 0xBF597FC7, 0xC6E00BF3, 0xD5A79147, 0x06CA6351, 0x14292967]
/-- Row 32 of the table of R521. -/
def kRow32 : List Word :=
  [0x27B70A85, 0x2E1B2138, 0x4D2C6DFC, 0x53380D13, 0x650A7354, 0x766A0ABB, 0x81C2C92E, 0x92722C85]
/-- Row 40 of the table of R521. -/
def kRow40 : List Word :=
  [0xA2BFE8A1, 0xA81A664B, 0xC24B8B70, 0xC76C51A3, 0xD192E819, 0xD6990624, 0xF40E3585, 0x106AA070]
/-- Row 48 of the table of R521. -/
def kRow48 : List Word :=
  [0x19A4C116, 0x1E376C08, 0x2748774C, 0x34B0BCB5, 0x391C0CB3, 0x4ED8AA4A, 0x5B9CCA4F, 0x682E6FF3]
/-- Row 56 of the table of R521. -/
def kRow56 : List Word :=
  [0x748F82EE, 0x78A5636F, 0x84C87814, 0x8CC70208, 0x90BEFFFA, 0xA4506CEB, 0xBEF9A3F7, 0xC67178F2]

/-- K[0..63], the round constants (R521). -/
def kTable : List Word := kRow0 ++ kRow8 ++ kRow16 ++ kRow24 ++ kRow32 ++ kRow40 ++ kRow48 ++ kRow56

/-- K[t] (R521). No round has `t ≥ 64` (R710), so the value past the table is never used. -/
def kAt (t : Nat) : Word := kTable.getD t 0

/-- The first 64 primes p_0 .. p_63, from which R520 and R521 define IV and K (R522). -/
def primes : List Nat :=
  [2, 3, 5, 7, 11, 13, 17, 19, 23, 29, 31, 37, 41, 43, 47, 53] ++
  [59, 61, 67, 71, 73, 79, 83, 89, 97, 101, 103, 107, 109, 113, 127, 131] ++
  [137, 139, 149, 151, 157, 163, 167, 173, 179, 181, 191, 193, 197, 199, 211, 223] ++
  [227, 229, 233, 239, 241, 251, 257, 263, 269, 271, 277, 281, 283, 293, 307, 311]

end Sys2Proof.Machine
end

