-- ==== Sys2Proof/Machine/Logic.lean ====
section
/-! DEFINITION. The word operations of the datapath (41_logic_functions.md): combinational, "they have no state,
raise no error and set no flag". Addition (R500) is `+` on `Word` and the bitwise operations (R501) are those of
`BitVec`. -/

namespace Sys2Proof.Machine

/-- `ROTR(x, n) = (x >> n) | (x << (32 - n))` for 0 < n < 32 (R503). -/
def rotr (x : Word) (n : Nat) : Word := (x >>> n) ||| (x <<< (32 - n))

/-- `SHR(x, n) = x >> n`, zeros entering at bit 31 (R504). -/
def shr (x : Word) (n : Nat) : Word := x >>> n

/-- `Ch(x, y, z) = (x & y) ^ (~x & z)` (R505). -/
def ch (x y z : Word) : Word := (x &&& y) ^^^ (~~~x &&& z)

/-- `Maj(x, y, z) = (x & y) ^ (x & z) ^ (y & z)` (R506). -/
def maj (x y z : Word) : Word := (x &&& y) ^^^ (x &&& z) ^^^ (y &&& z)

/-- Σ0 (R507). -/
def bsig0 (x : Word) : Word := rotr x 2 ^^^ rotr x 13 ^^^ rotr x 22

/-- Σ1 (R508). -/
def bsig1 (x : Word) : Word := rotr x 6 ^^^ rotr x 11 ^^^ rotr x 25

/-- σ0 (R509). -/
def ssig0 (x : Word) : Word := rotr x 7 ^^^ rotr x 18 ^^^ shr x 3

/-- σ1 (R510). -/
def ssig1 (x : Word) : Word := rotr x 17 ^^^ rotr x 19 ^^^ shr x 10

end Sys2Proof.Machine
end

