-- ==== Sys2Proof/Machine/Scheduler.lean ====
section
/-! DEFINITION. The message scheduler (42_message_scheduler.md): the window the block holds, and the source's
schedule W as a function of the block's words, to which statements compare the window. -/

namespace Sys2Proof.Machine

/-- `Wnext(WIN) = σ1(WIN[14]) + WIN[9] + σ0(WIN[1]) + WIN[0]` (R601). -/
def wnext (win : Vector Word 16) : Word := ssig1 win[14] + win[9] + ssig0 win[1] + win[0]

/-- The window after a shift: `WIN'[i] <- WIN[i+1]` for i = 0..14, `WIN'[15] <- Wnext(WIN)` (R602). -/
def shiftWindow (win : Vector Word 16) : Vector Word 16 :=
  #v[win[1], win[2], win[3], win[4], win[5], win[6], win[7], win[8],
     win[9], win[10], win[11], win[12], win[13], win[14], win[15], wnext win]

/-- `W[n]` from the words `W[0..n-1]`: `σ1(W[n-2]) + W[n-7] + σ0(W[n-15]) + W[n-16]` (R604). -/
def scheduleNext (ws : List Word) : Word :=
  let n := ws.length
  ssig1 (ws.getD (n - 2) 0) + ws.getD (n - 7) 0 + ssig0 (ws.getD (n - 15) 0) + ws.getD (n - 16) 0

/-- The first `16 + n` words of the schedule of block `M` (R604), extended by the same recurrence past W[63]
(R603). -/
def scheduleWords (M : Vector Word 16) : Nat → List Word
  | 0 => M.toList
  | n + 1 => scheduleWords M n ++ [scheduleNext (scheduleWords M n)]

/-- `W[t]` of block `M` (R604). -/
def schedule (M : Vector Word 16) (t : Nat) : Word := (scheduleWords M (t - 15)).getD t 0

end Sys2Proof.Machine
end

