-- ==== Sys2Proof/Config.lean ====
section
/-! DEFINITION. What the spec leaves open: the platform's base address and the read data of a reset
cycle. Both are opaque, so no proof can depend on a value of either. -/

namespace Sys2Proof

/-- `SHA_BASE`, the byte address at which a platform maps the block: the OPEN parameter of R204 (D20).
DESIGN CHOICE, safe: log entry 4. -/
opaque Config.shaBase : Nat

/-- `reset_rdata`, the read data of a reset cycle: "any 32-bit value, and a model must not give it a fixed
value" (R1202, D13). The argument is the model's counter of reset cycles, so that every reset cycle draws
afresh. DESIGN CHOICE, safe: log entry 3. -/
opaque Config.resetRdata : Nat → Word

end Sys2Proof
end

