-- ==== Sys2Proof/Machine/State.lean ====
section
/-! DEFINITION. The state of SHA256-CORE: the registers of R100, and beside them what the model needs of the world
around the block (the host's coming actions, the reset input, the outputs of the last cycle). -/

namespace Sys2Proof.Machine

/-- The core's sequencing state (R106). R106's unreachable encoding 0b11 has no constructor (log entry 8). -/
inductive Phase where
  /-- 0b00: waits for a command (R112). -/
  | idle
  /-- 0b01: performs round t (R710). -/
  | round
  /-- 0b10: the one cycle of the final addition (R712). -/
  | final
deriving DecidableEq, Repr

/-- The eight working variables (R102). -/
structure Work where
  a : Word
  b : Word
  c : Word
  d : Word
  e : Word
  f : Word
  g : Word
  h : Word
deriving DecidableEq, Repr

/-- The block's registers: "The block holds the following state, and nothing else" (R100). -/
structure Regs where
  /-- HASH[0..7], the running hash state (R101). -/
  hash : Vector Word 8
  /-- a..h, the working variables (R102). -/
  work : Work
  /-- MSG[0..15], the message block buffer (R103). -/
  msg : Vector Word 16
  /-- WIN[0..15], the message-schedule window (R104). -/
  win : Vector Word 16
  /-- t, the round counter (R105). -/
  t : BitVec 6
  /-- phase (R106). -/
  phase : Phase
  /-- VALID: HASH holds a completed compression result (R107). -/
  valid : Bool
  /-- ERR, the sticky command-error flag (R108). -/
  err : Bool
deriving DecidableEq, Repr

/-- The outputs driven during a cycle (R200, R720). -/
structure Outputs where
  /-- Read data. -/
  rdata : Word
  /-- Equals STATUS.BUSY. -/
  busy : Bool
  /-- Equals STATUS.VALID. -/
  valid : Bool
deriving DecidableEq, Repr

/-- An access a platform makes in its byte address space (R204, R206). -/
structure PlatformAccess where
  /-- The byte address. -/
  byteAddr : Nat
  /-- The width in bytes. -/
  bytes : Nat
  /-- true = write. -/
  we : Bool
  /-- The write data. -/
  data : Word
deriving DecidableEq, Repr

/-- What the host does in its coming cycles: one action is one cycle, but for a POLL (R310; log entry 1). -/
inductive HostOp where
  /-- A cycle with `cs = 0` (R201). -/
  | idle
  /-- One transaction, by its T word (R300): `WR` and `RD` of R310. -/
  | txn (T : TWord)
  /-- `POLL`: "repeat `RD <reg>` in consecutive cycles until `(rdata & mask) == val`" (R310). -/
  | poll (addr : RegAddr) (mask val : Word)
  /-- An access through the platform's byte addresses (R204). -/
  | platform (acc : PlatformAccess)
deriving DecidableEq, Repr

/-- The machine: the block's registers and the world around them. -/
structure State where
  /-- The block's registers, all its state (R100). -/
  regs : Regs
  /-- The outputs driven during the last cycle (R720; log entry 2). -/
  out : Outputs
  /-- The host's coming actions, the next one first; an empty list is idle cycles (log entry 1). -/
  hostOps : List HostOp
  /-- The input `rst` of the coming cycles, the next one first; an empty list is `rst = 0` (log entry 1). -/
  rstIn : List Bool
  /-- The read data the host has kept, oldest first (R310; log entry 6). -/
  kept : List Word
  /-- The counter of the free value `reset_rdata`: the model's own field (R1202; log entry 3). -/
  resetDraws : Nat
deriving DecidableEq, Repr

/-- The reasons to stop with a fault: NONE. "The block raises no exception and never traps, halts or hangs"
(R1100), so nobody raises one. Safe. -/
inductive Fault where
deriving DecidableEq, Repr

/-- The reasons to refuse. -/
inductive Refusal where
  /-- Raised by an arm of `exec` whose instruction has no meaning yet; no arm does. Safe. -/
  | notModelled (mnemonic : String)
  /-- Raised by the step for a platform access that is not 32 bits wide: "the block defines no behaviour for it and
  a model must refuse it rather than guess" (R206). Safe. -/
  | platformWidth
  /-- Raised by the step for a platform access at `SHA_BASE + 4*i + k` with `k ≠ 0` (R206). Safe. -/
  | platformMisaligned
  /-- Raised by the step for a platform access outside the block's 64 words: the spec says nothing of it (R204).
  Safe; log entry 5. -/
  | platformOutsideBlock
deriving DecidableEq, Repr

/-- Every working variable 0 (R114). -/
def Work.zero : Work := ⟨0, 0, 0, 0, 0, 0, 0, 0⟩

/-- The reset values of all the block's registers (R114). -/
def Regs.reset : Regs where
  hash := Vector.replicate 8 0
  work := Work.zero
  msg := Vector.replicate 16 0
  win := Vector.replicate 16 0
  t := 0
  phase := .idle
  valid := false
  err := false

/-- The outputs while no transaction is presented in the reset state: `rdata = 0` (R201), `busy = valid = 0`. -/
def Outputs.quiet : Outputs := ⟨0, false, false⟩

/-- The machine right after reset (R114, R1203). The fields around the registers: log entries 1, 2, 3 and 6. -/
def State.reset : State where
  regs := Regs.reset
  out := Outputs.quiet
  hostOps := []
  rstIn := []
  kept := []
  resetDraws := 0

end Sys2Proof.Machine
end

