-- ==== Sys2Proof/Machine/Datapath.lean ====
section
/-! DEFINITION. The round datapath (43_round_datapath.md): the round, the three kinds of cycle, and the
compression as a pure function. -/

namespace Sys2Proof.Machine

/-- The working variables loaded from eight words: `(a, ..., h) <- (H[0], ..., H[7])` (R700, R802, R803). -/
def Work.load (H : Vector Word 8) : Work := ⟨H[0], H[1], H[2], H[3], H[4], H[5], H[6], H[7]⟩

/-- `T1 = h + Σ1(e) + Ch(e, f, g) + K[t] + w` (R701). -/
def roundT1 (k w : Word) (v : Work) : Word := v.h + bsig1 v.e + ch v.e v.f v.g + k + w

/-- `T2 = Σ0(a) + Maj(a, b, c)` (R701). -/
def roundT2 (v : Work) : Word := bsig0 v.a + maj v.a v.b v.c

/-- The round function, with round constant `k` and schedule word `w` (R701). -/
def roundStep (k w : Word) (v : Work) : Work where
  a := roundT1 k w v + roundT2 v
  b := v.a
  c := v.b
  d := v.c
  e := v.d + roundT1 k w v
  f := v.e
  g := v.f
  h := v.g

/-- The final addition: `H'[i] = H[i] + v_i` modulo 2^32 (R700, R712). -/
def addWork (H : Vector Word 8) (v : Work) : Vector Word 8 :=
  #v[H[0] + v.a, H[1] + v.b, H[2] + v.c, H[3] + v.d, H[4] + v.e, H[5] + v.f, H[6] + v.g, H[7] + v.h]

/-- A ROUND cycle (R710). -/
def roundCycle (S : Regs) : Regs :=
  { S with
    work := roundStep (kAt S.t.toNat) S.win[0] S.work
    win := shiftWindow S.win
    phase := if S.t = 63 then .final else .round
    t := if S.t = 63 then 0 else S.t + 1 }

/-- A FINAL cycle (R712). -/
def finalCycle (S : Regs) : Regs :=
  { S with
    hash := addWork S.hash S.work
    valid := true
    phase := .idle }

/-- The datapath's part of a step: "R710 if ROUND, R712 if FINAL, R713 if IDLE" (R720). -/
def datapath (S : Regs) : Regs :=
  match S.phase with
  | .idle => S
  | .round => roundCycle S
  | .final => finalCycle S

/-! ## The compression as a pure function (R700) -/

/-- The working variables before round `n` of the compression of block `M` from hash state `H` (R700). -/
def workBefore (H : Vector Word 8) (M : Vector Word 16) : Nat → Work
  | 0 => Work.load H
  | n + 1 => roundStep (kAt n) (schedule M n) (workBefore H M n)

/-- `Compress(H, M)` (R700). -/
def compress (H : Vector Word 8) (M : Vector Word 16) : Vector Word 8 := addWork H (workBefore H M 64)

end Sys2Proof.Machine
end

