-- ==== Sys2Proof/Machine/Flags.lean ====
section
/-! DEFINITION. The flags: BUSY is derived (R111), VALID and ERR are registers (R107, R108), and STATUS shows the
three (R903). -/

namespace Sys2Proof.Machine

/-- `BUSY = (phase ≠ IDLE)` (R111). -/
def Regs.busy (S : Regs) : Bool := S.phase != .idle

/-- STATUS as it is read: `zext_32({ERR, VALID, BUSY})` (R903). -/
def Regs.statusWord (S : Regs) : Word :=
  (0 : BitVec 29) ++ BitVec.ofBool S.err ++ BitVec.ofBool S.valid ++ BitVec.ofBool S.busy

/-- `ERR <- 1`, the only error effect there is (R1100, R1101). -/
def Regs.setErr (S : Regs) : Regs := { S with err := true }

/-- `ERR <- 0` (R910, R1103). -/
def Regs.clearErr (S : Regs) : Regs := { S with err := false }

end Sys2Proof.Machine
end

