-- ==== Sys2Proof/Syntax.lean ====
section
/-! DEFINITION. The instructions of SHA256-CORE: the host's register transactions, one constructor per row of
spec/opcode_table.json (R304, R305). The bits of T that a row does not fix are its operands, the don't-care bits
among them, so that no bit of a transaction word is lost (log entry 11). -/

namespace Sys2Proof

/-- A transaction presented in a cycle with `cs = 1` (R300). Operands: `r` is C[31:4] of a command, ignored;
`x` is wdata of a read, ignored; `d` is wdata of a write; `i` is the index of an array register (R303); `op` is
the opcode of a reserved command and `addr` the whole index of a reserved slot, checked by `Instr.wf`. -/
inductive Instr where
  /-- CMD_NOP, CTRL write with opcode 0x0 (R800). -/
  | cmdNop (r : BitVec 28)
  /-- CMD_INIT, CTRL write with opcode 0x1 (R801). -/
  | cmdInit (r : BitVec 28)
  /-- CMD_NEXT, CTRL write with opcode 0x2 (R802). -/
  | cmdNext (r : BitVec 28)
  /-- CMD_FIRST, CTRL write with opcode 0x3 (R803). -/
  | cmdFirst (r : BitVec 28)
  /-- CMD_RSVD, CTRL write with opcode 0x4..0x7 (R804). -/
  | cmdRsvd4 (op : BitVec 4) (r : BitVec 28)
  /-- CMD_RSVD, CTRL write with opcode 0x8..0xF (R804). -/
  | cmdRsvd8 (op : BitVec 4) (r : BitVec 28)
  /-- RD_ID, read of index 0x00 (R900). -/
  | rdId (x : Word)
  /-- RD_VERSION, read of index 0x01 (R901). -/
  | rdVersion (x : Word)
  /-- RD_CTRL, read of index 0x02 (R902). -/
  | rdCtrl (x : Word)
  /-- RD_STATUS, read of index 0x03 (R903). -/
  | rdStatus (x : Word)
  /-- RD_MSG, read of index 0x10 + i (R904). -/
  | rdMsg (i : BitVec 4) (x : Word)
  /-- RD_DIGEST, read of index 0x20 + i (R905). -/
  | rdDigest (i : BitVec 3) (x : Word)
  /-- RD_RSVD, read of a reserved index 0x04..0x07 (R906). -/
  | rdRsvd04 (addr : RegAddr) (x : Word)
  /-- RD_RSVD, read of a reserved index 0x08..0x0F (R906). -/
  | rdRsvd08 (addr : RegAddr) (x : Word)
  /-- RD_RSVD, read of a reserved index 0x28..0x2F (R906). -/
  | rdRsvd28 (addr : RegAddr) (x : Word)
  /-- RD_RSVD, read of a reserved index 0x30..0x3F (R906). -/
  | rdRsvd30 (addr : RegAddr) (x : Word)
  /-- WR_ID, write of index 0x00, ignored (R913). -/
  | wrId (d : Word)
  /-- WR_VERSION, write of index 0x01, ignored (R913). -/
  | wrVersion (d : Word)
  /-- WR_STATUS, write of index 0x03 (format S, R302, R910). -/
  | wrStatus (d : Word)
  /-- WR_MSG, write of index 0x10 + i (R911). -/
  | wrMsg (i : BitVec 4) (d : Word)
  /-- WR_DIGEST, write of index 0x20 + i, ignored (R913). -/
  | wrDigest (i : BitVec 3) (d : Word)
  /-- WR_RSVD, write of a reserved index 0x04..0x07, ignored (R914). -/
  | wrRsvd04 (addr : RegAddr) (d : Word)
  /-- WR_RSVD, write of a reserved index 0x08..0x0F, ignored (R914). -/
  | wrRsvd08 (addr : RegAddr) (d : Word)
  /-- WR_RSVD, write of a reserved index 0x28..0x2F, ignored (R914). -/
  | wrRsvd28 (addr : RegAddr) (d : Word)
  /-- WR_RSVD, write of a reserved index 0x30..0x3F, ignored (R914). -/
  | wrRsvd30 (addr : RegAddr) (d : Word)
deriving DecidableEq, Repr

end Sys2Proof
end

