-- ==== Sys2Proof/WellFormed.lean ====
section
/-! DEFINITION. Which terms of `Instr` are transactions of their row of spec/opcode_table.json: the operands that
are wider than the row's free bits lie in the row's range (R304, R305). Every other operand has exactly the width
of its field, so nothing is left to check there. -/

namespace Sys2Proof

/-- `lo ≤ v ≤ hi`, unsigned (R9). -/
abbrev inRange {w : Nat} (lo hi v : BitVec w) : Bool := lo.ule v && v.ule hi

/-- The instruction is one of its row (R304, R305; the notes "indices 0x04..0x07" and the like of
spec/opcode_table.json). -/
def Instr.wf : Instr → Bool
  | .cmdNop _ => true
  | .cmdInit _ => true
  | .cmdNext _ => true
  | .cmdFirst _ => true
  | .cmdRsvd4 op _ => inRange 0x4 0x7 op
  | .cmdRsvd8 op _ => inRange 0x8 0xF op
  | .rdId _ => true
  | .rdVersion _ => true
  | .rdCtrl _ => true
  | .rdStatus _ => true
  | .rdMsg _ _ => true
  | .rdDigest _ _ => true
  | .rdRsvd04 addr _ => inRange 0x04 0x07 addr
  | .rdRsvd08 addr _ => inRange 0x08 0x0F addr
  | .rdRsvd28 addr _ => inRange 0x28 0x2F addr
  | .rdRsvd30 addr _ => inRange 0x30 0x3F addr
  | .wrId _ => true
  | .wrVersion _ => true
  | .wrStatus _ => true
  | .wrMsg _ _ => true
  | .wrDigest _ _ => true
  | .wrRsvd04 addr _ => inRange 0x04 0x07 addr
  | .wrRsvd08 addr _ => inRange 0x08 0x0F addr
  | .wrRsvd28 addr _ => inRange 0x28 0x2F addr
  | .wrRsvd30 addr _ => inRange 0x30 0x3F addr

/-- The canonical encoding: the reserved bits of a command and the wdata of a read are 0 (R300, R301). It is
advice to the host (R308); the block acts the same on every other encoding (R307). -/
def Instr.canonical : Instr → Bool
  | .cmdNop r => r == 0
  | .cmdInit r => r == 0
  | .cmdNext r => r == 0
  | .cmdFirst r => r == 0
  | .cmdRsvd4 _ r => r == 0
  | .cmdRsvd8 _ r => r == 0
  | .rdId x => x == 0
  | .rdVersion x => x == 0
  | .rdCtrl x => x == 0
  | .rdStatus x => x == 0
  | .rdMsg _ x => x == 0
  | .rdDigest _ x => x == 0
  | .rdRsvd04 _ x => x == 0
  | .rdRsvd08 _ x => x == 0
  | .rdRsvd28 _ x => x == 0
  | .rdRsvd30 _ x => x == 0
  | .wrId _ => true
  | .wrVersion _ => true
  | .wrStatus _ => true
  | .wrMsg _ _ => true
  | .wrDigest _ _ => true
  | .wrRsvd04 _ _ => true
  | .wrRsvd08 _ _ => true
  | .wrRsvd28 _ _ => true
  | .wrRsvd30 _ _ => true

end Sys2Proof
end

