-- ==== Sys2Proof/Decode.lean ====
section
/-! DEFINITION. Decoding a transaction word T to an instruction (R300 to R305), total on 39 bits, and the encoder
written from the same formats. Bits that are no transaction word are rejected by name. -/

namespace Sys2Proof

/-- Why bits are no transaction word. -/
inductive DecodeError where
  /-- A bit above T[38] is set: every transaction is exactly one 39-bit T word (R300, R309). -/
  | widerThanTransactionWord
deriving DecidableEq, Repr

/-! ## Format T (R300) -/

/-- T[38]: 1 = write, 0 = read (R300). -/
def TWord.we (T : TWord) : Bool := T.getLsbD 38

/-- T[37:32]: the register word index (R300). -/
def TWord.addr (T : TWord) : RegAddr := T.extractLsb' 32 6

/-- T[31:0]: the write data (R300). -/
def TWord.wdata (T : TWord) : Word := T.extractLsb' 0 32

/-- `T = {we, addr[5:0], wdata[31:0]}` (R300). -/
def TWord.make (we : Bool) (addr : RegAddr) (wdata : Word) : TWord := BitVec.ofBool we ++ addr ++ wdata

/-! ## Format C (R301) and operand assembly (R303) -/

/-- C[3:0], the command opcode (R301). -/
def commandOp (C : Word) : BitVec 4 := C.extractLsb' 0 4

/-- C[31:4], reserved (R301). -/
def commandReserved (C : Word) : BitVec 28 := C.extractLsb' 4 28

/-- The command word `{reserved, op}` (R301). -/
def commandWord (op : BitVec 4) (r : BitVec 28) : Word := r ++ op

/-- The MSG word of an index 0x10..0x1F: `addr[3:0]` (R303). -/
def msgIndex (addr : RegAddr) : BitVec 4 := addr.extractLsb' 0 4

/-- The DIGEST word of an index 0x20..0x27: `addr[2:0]` (R303). -/
def digestIndex (addr : RegAddr) : BitVec 3 := addr.extractLsb' 0 3

/-- The register index of MSG word `i`: 0x10 + i (R203). -/
def msgAddr (i : BitVec 4) : RegAddr := (0b01 : BitVec 2) ++ i

/-- The register index of DIGEST word `i`: 0x20 + i (R203). -/
def digestAddr (i : BitVec 3) : RegAddr := (0b100 : BitVec 3) ++ i

/-! ## The decoder (R304, R305) -/

/-- A CTRL write, by its opcode C[3:0] (R304, R909). -/
def decodeCommand (C : Word) : Instr :=
  let op := commandOp C
  let r := commandReserved C
  if op = 0x0 then .cmdNop r
  else if op = 0x1 then .cmdInit r
  else if op = 0x2 then .cmdNext r
  else if op = 0x3 then .cmdFirst r
  else if op.ule 0x7 then .cmdRsvd4 op r
  else .cmdRsvd8 op r

/-- The rows of R305 with we = 0. -/
def decodeRead (addr : RegAddr) (x : Word) : Instr :=
  if addr = 0x00 then .rdId x
  else if addr = 0x01 then .rdVersion x
  else if addr = 0x02 then .rdCtrl x
  else if addr = 0x03 then .rdStatus x
  else if addr.ule 0x07 then .rdRsvd04 addr x
  else if addr.ule 0x0F then .rdRsvd08 addr x
  else if addr.ule 0x1F then .rdMsg (msgIndex addr) x
  else if addr.ule 0x27 then .rdDigest (digestIndex addr) x
  else if addr.ule 0x2F then .rdRsvd28 addr x
  else .rdRsvd30 addr x

/-- The rows of R305 with we = 1. -/
def decodeWrite (addr : RegAddr) (d : Word) : Instr :=
  if addr = 0x00 then .wrId d
  else if addr = 0x01 then .wrVersion d
  else if addr = 0x02 then decodeCommand d
  else if addr = 0x03 then .wrStatus d
  else if addr.ule 0x07 then .wrRsvd04 addr d
  else if addr.ule 0x0F then .wrRsvd08 addr d
  else if addr.ule 0x1F then .wrMsg (msgIndex addr) d
  else if addr.ule 0x27 then .wrDigest (digestIndex addr) d
  else if addr.ule 0x2F then .wrRsvd28 addr d
  else .wrRsvd30 addr d

/-- The instruction of a transaction word: "A decoder is total: there is no combination without a defined
effect" (R305). -/
def decode (T : TWord) : Instr :=
  if T.we then decodeWrite T.addr T.wdata else decodeRead T.addr T.wdata

/-- Decoding a number of any size: a number of more than 39 bits is no transaction word (R300, R309). -/
def decodeBits (w : Nat) : Except DecodeError Instr :=
  if w < 2 ^ 39 then .ok (decode (BitVec.ofNat 39 w)) else .error .widerThanTransactionWord

/-- The host's question: the instruction of bits numbered as spec/opcode_table.json numbers them. The bits above
`nbits` are 0. A transaction word is one word, so the table's numbering is T's own (R300; log entry 12). -/
def decodeTableWord (nbits w : Nat) : Option Instr := (decodeBits (w % 2 ^ nbits)).toOption

/-! ## The encoder -/

/-- A read transaction `{0, addr, x}` (R300). -/
def encodeRead (addr : RegAddr) (x : Word) : TWord := TWord.make false addr x

/-- A write transaction `{1, addr, d}` (R300). -/
def encodeWrite (addr : RegAddr) (d : Word) : TWord := TWord.make true addr d

/-- A command: a write of the command word to CTRL, index 0x02 (R301). -/
def encodeCommand (op : BitVec 4) (r : BitVec 28) : TWord := encodeWrite 0x02 (commandWord op r)

/-- The transaction word of an instruction (R300 to R305). -/
def encode : Instr → TWord
  | .cmdNop r => encodeCommand 0x0 r
  | .cmdInit r => encodeCommand 0x1 r
  | .cmdNext r => encodeCommand 0x2 r
  | .cmdFirst r => encodeCommand 0x3 r
  | .cmdRsvd4 op r => encodeCommand op r
  | .cmdRsvd8 op r => encodeCommand op r
  | .rdId x => encodeRead 0x00 x
  | .rdVersion x => encodeRead 0x01 x
  | .rdCtrl x => encodeRead 0x02 x
  | .rdStatus x => encodeRead 0x03 x
  | .rdMsg i x => encodeRead (msgAddr i) x
  | .rdDigest i x => encodeRead (digestAddr i) x
  | .rdRsvd04 addr x => encodeRead addr x
  | .rdRsvd08 addr x => encodeRead addr x
  | .rdRsvd28 addr x => encodeRead addr x
  | .rdRsvd30 addr x => encodeRead addr x
  | .wrId d => encodeWrite 0x00 d
  | .wrVersion d => encodeWrite 0x01 d
  | .wrStatus d => encodeWrite 0x03 d
  | .wrMsg i d => encodeWrite (msgAddr i) d
  | .wrDigest i d => encodeWrite (digestAddr i) d
  | .wrRsvd04 addr d => encodeWrite addr d
  | .wrRsvd08 addr d => encodeWrite addr d
  | .wrRsvd28 addr d => encodeWrite addr d
  | .wrRsvd30 addr d => encodeWrite addr d

/-! ## The opcode table (spec/opcode_table.json, the machine-readable copy of R305) -/

/-- The 25 rows of spec/opcode_table.json, in its order: the name of the row's constructor here, its `match` and
its `mask`. -/
inductive Row where
  | cmdNop | cmdInit | cmdNext | cmdFirst | cmdRsvd4 | cmdRsvd8
  | rdId | rdVersion | rdCtrl | rdStatus | rdMsg | rdDigest
  | rdRsvd04 | rdRsvd08 | rdRsvd28 | rdRsvd30
  | wrId | wrVersion | wrStatus | wrMsg | wrDigest
  | wrRsvd04 | wrRsvd08 | wrRsvd28 | wrRsvd30
deriving DecidableEq, Repr

/-- The row's `(match, mask)`, copied from spec/opcode_table.json. -/
def Row.matchMask : Row → TWord × TWord
  | .cmdNop => (0x4200000000, 0x7f0000000f)
  | .cmdInit => (0x4200000001, 0x7f0000000f)
  | .cmdNext => (0x4200000002, 0x7f0000000f)
  | .cmdFirst => (0x4200000003, 0x7f0000000f)
  | .cmdRsvd4 => (0x4200000004, 0x7f0000000c)
  | .cmdRsvd8 => (0x4200000008, 0x7f00000008)
  | .rdId => (0x0000000000, 0x7f00000000)
  | .rdVersion => (0x0100000000, 0x7f00000000)
  | .rdCtrl => (0x0200000000, 0x7f00000000)
  | .rdStatus => (0x0300000000, 0x7f00000000)
  | .rdMsg => (0x1000000000, 0x7000000000)
  | .rdDigest => (0x2000000000, 0x7800000000)
  | .rdRsvd04 => (0x0400000000, 0x7c00000000)
  | .rdRsvd08 => (0x0800000000, 0x7800000000)
  | .rdRsvd28 => (0x2800000000, 0x7800000000)
  | .rdRsvd30 => (0x3000000000, 0x7000000000)
  | .wrId => (0x4000000000, 0x7f00000000)
  | .wrVersion => (0x4100000000, 0x7f00000000)
  | .wrStatus => (0x4300000000, 0x7f00000000)
  | .wrMsg => (0x5000000000, 0x7000000000)
  | .wrDigest => (0x6000000000, 0x7800000000)
  | .wrRsvd04 => (0x4400000000, 0x7c00000000)
  | .wrRsvd08 => (0x4800000000, 0x7800000000)
  | .wrRsvd28 => (0x6800000000, 0x7800000000)
  | .wrRsvd30 => (0x7000000000, 0x7000000000)

/-- T falls under the row: its fixed bits are the row's. -/
def Row.covers (row : Row) (T : TWord) : Bool := T &&& row.matchMask.2 == row.matchMask.1

/-- The row an instruction stands for. -/
def Instr.row : Instr → Row
  | .cmdNop _ => .cmdNop
  | .cmdInit _ => .cmdInit
  | .cmdNext _ => .cmdNext
  | .cmdFirst _ => .cmdFirst
  | .cmdRsvd4 _ _ => .cmdRsvd4
  | .cmdRsvd8 _ _ => .cmdRsvd8
  | .rdId _ => .rdId
  | .rdVersion _ => .rdVersion
  | .rdCtrl _ => .rdCtrl
  | .rdStatus _ => .rdStatus
  | .rdMsg _ _ => .rdMsg
  | .rdDigest _ _ => .rdDigest
  | .rdRsvd04 _ _ => .rdRsvd04
  | .rdRsvd08 _ _ => .rdRsvd08
  | .rdRsvd28 _ _ => .rdRsvd28
  | .rdRsvd30 _ _ => .rdRsvd30
  | .wrId _ => .wrId
  | .wrVersion _ => .wrVersion
  | .wrStatus _ => .wrStatus
  | .wrMsg _ _ => .wrMsg
  | .wrDigest _ _ => .wrDigest
  | .wrRsvd04 _ _ => .wrRsvd04
  | .wrRsvd08 _ _ => .wrRsvd08
  | .wrRsvd28 _ _ => .wrRsvd28
  | .wrRsvd30 _ _ => .wrRsvd30

end Sys2Proof
end

