-- ==== Sys2Proof/Machine/Operands.lean ====
section
/-! DEFINITION. The operand forms (R303): the index of an array register and the fields of the write data. There
are no immediates, no register operands and no extension. -/

namespace Sys2Proof.Machine

/-- The MSG word a transaction names, `MSG[i]` (R303, R904). -/
def Regs.msgWord (S : Regs) (i : BitVec 4) : Word := S.msg[i.toNat]

/-- The DIGEST word a transaction names, `HASH[i]` (R303, R905). -/
def Regs.digestWord (S : Regs) (i : BitVec 3) : Word := S.hash[i.toNat]

/-- `MSG[i] <- v` (R911). -/
def Regs.setMsgWord (S : Regs) (i : BitVec 4) (v : Word) : Regs := { S with msg := S.msg.set i.toNat v }

/-- S[2] of a STATUS write: 1 clears ERR (format S, R302). -/
def clrErrBit (d : Word) : Bool := d.getLsbD 2

end Sys2Proof.Machine
end

