-- ==== Sys2Proof/Machine/Ops.lean ====
section
/-! DEFINITION. The operations the meanings share: accepting or rejecting a command, loading IV, starting a
compression, and the three kinds of clock cycle (a transaction, none, reset). The block has no exceptions (R1100,
R1106): its only error effect is `Regs.setErr`, and `testBusy` is the one place where a command is rejected. -/

namespace Sys2Proof.Machine

/-- A host write: from the current state `S`, which its tests use, and the state `S1` after the datapath's part, on
which it acts (R720, R912). -/
abbrev HostWrite := Regs → Regs → Regs

/-- A transaction that writes nothing (reads R209; ignored writes R913, R914; CMD_NOP R800). -/
def writeNothing : HostWrite := fun _ S1 => S1

/-- INIT, NEXT and FIRST "test the phase of the current state S" (R805): accepted when it is IDLE, otherwise
`ERR <- 1` and nothing else (R808). -/
def testBusy (accepted : Regs → Regs) : HostWrite :=
  fun S S1 => if S.phase = .idle then accepted S1 else S1.setErr

/-- `HASH[i]' <- IV[i]` and `VALID' <- 0` (R801). -/
def loadIv (S : Regs) : Regs := { S with hash := iv, valid := false }

/-- The start of a compression: `a..h` from the words `H`, WIN from MSG (R600), `t <- 0`, `phase <- ROUND`,
`VALID <- 0` (R802, R803). -/
def startCompression (H : Vector Word 8) (S : Regs) : Regs :=
  { S with
    work := Work.load H
    win := S.msg
    t := 0
    phase := .round
    valid := false }

/-- The outputs of a cycle whose current state is `S` and whose read data is `rdata`: `busy = BUSY(S)`,
`valid = S.VALID` (R720). -/
def Regs.outputs (S : Regs) (rdata : Word) : Outputs := ⟨rdata, S.busy, S.valid⟩

/-- A cycle with `rst = 0`: the datapath's part and the host's write at one edge (R720). -/
def State.clock (s : State) (rdata : Word) (write : HostWrite) : State :=
  { s with
    regs := write s.regs (datapath s.regs)
    out := s.regs.outputs rdata }

/-- An idle cycle: no transaction, `rdata = 0x00000000`, "only the datapath step happens" (R201, R907). -/
def idleCycle (s : State) : State := s.clock 0 writeNothing

/-- A cycle with `rst = 1`: the reset state, the read data a draw, `busy` and `valid` of the current state (R1200,
R1202, R720). -/
def resetCycle (s : State) : State :=
  { s with
    regs := Regs.reset
    out := s.regs.outputs (Config.resetRdata s.resetDraws)
    resetDraws := s.resetDraws + 1 }

end Sys2Proof.Machine
end

