-- ==== Sys2Proof/Machine/Commands.lean ====
section
/-! DEFINITION. The commands, writes to CTRL (44_commands.md, R909). A write drives `rdata = 0` (R908). The
reserved bits C[31:4] are ignored (R301). -/

namespace Sys2Proof.Machine

/-- CMD_NOP: no register changes, no error in any phase (R800). -/
def execCmdNop (_r : BitVec 28) (s : State) : Host.Outcome State Fault Refusal :=
  .next (s.clock 0 writeNothing)

/-- CMD_INIT: if idle, `HASH <- IV`, `VALID <- 0`; else `ERR <- 1` (R801). -/
def execCmdInit (_r : BitVec 28) (s : State) : Host.Outcome State Fault Refusal :=
  .next (s.clock 0 (testBusy loadIv))

/-- CMD_NEXT: if idle, start a compression from HASH; else `ERR <- 1` (R802). -/
def execCmdNext (_r : BitVec 28) (s : State) : Host.Outcome State Fault Refusal :=
  .next (s.clock 0 (testBusy fun S => startCompression S.hash S))

/-- CMD_FIRST: if idle, `HASH <- IV` and start a compression from IV; else `ERR <- 1` (R803). -/
def execCmdFirst (_r : BitVec 28) (s : State) : Host.Outcome State Fault Refusal :=
  .next (s.clock 0 (testBusy fun S => startCompression iv (loadIv S)))

/-- CMD_RSVD, opcodes 0x4..0x7: `ERR <- 1` in every phase (R804). -/
def execCmdRsvd4 (_op : BitVec 4) (_r : BitVec 28) (s : State) : Host.Outcome State Fault Refusal :=
  .next (s.clock 0 fun _ S1 => S1.setErr)

/-- CMD_RSVD, opcodes 0x8..0xF: `ERR <- 1` in every phase (R804). -/
def execCmdRsvd8 (_op : BitVec 4) (_r : BitVec 28) (s : State) : Host.Outcome State Fault Refusal :=
  .next (s.clock 0 fun _ S1 => S1.setErr)

end Sys2Proof.Machine
end

