-- ==== Sys2Proof/Machine/Reads.lean ====
section
/-! DEFINITION. The read transactions (45_register_access.md, section 1): the read data comes from the current state
(R205) and nothing is written (R209). wdata is ignored (R300). -/

namespace Sys2Proof.Machine

/-- RD_ID: `rdata <- 0x53323536` (R900). -/
def execRdId (_x : Word) (s : State) : Host.Outcome State Fault Refusal :=
  .next (s.clock idWord writeNothing)

/-- RD_VERSION: `rdata <- 0x00010000` (R901). -/
def execRdVersion (_x : Word) (s : State) : Host.Outcome State Fault Refusal :=
  .next (s.clock versionWord writeNothing)

/-- RD_CTRL: `rdata <- 0x00000000`, "CTRL holds no value" (R902). -/
def execRdCtrl (_x : Word) (s : State) : Host.Outcome State Fault Refusal :=
  .next (s.clock 0 writeNothing)

/-- RD_STATUS: `rdata <- zext_32({ERR, VALID, BUSY})` (R903). -/
def execRdStatus (_x : Word) (s : State) : Host.Outcome State Fault Refusal :=
  .next (s.clock s.regs.statusWord writeNothing)

/-- RD_MSG: `rdata <- MSG[i]` (R904). -/
def execRdMsg (i : BitVec 4) (_x : Word) (s : State) : Host.Outcome State Fault Refusal :=
  .next (s.clock (s.regs.msgWord i) writeNothing)

/-- RD_DIGEST: `rdata <- HASH[i]` (R905). -/
def execRdDigest (i : BitVec 3) (_x : Word) (s : State) : Host.Outcome State Fault Refusal :=
  .next (s.clock (s.regs.digestWord i) writeNothing)

/-- RD_RSVD, indices 0x04..0x07: `rdata <- 0x00000000` (R906). -/
def execRdRsvd04 (_addr : RegAddr) (_x : Word) (s : State) : Host.Outcome State Fault Refusal :=
  .next (s.clock 0 writeNothing)

/-- RD_RSVD, indices 0x08..0x0F: `rdata <- 0x00000000` (R906). -/
def execRdRsvd08 (_addr : RegAddr) (_x : Word) (s : State) : Host.Outcome State Fault Refusal :=
  .next (s.clock 0 writeNothing)

/-- RD_RSVD, indices 0x28..0x2F: `rdata <- 0x00000000` (R906). -/
def execRdRsvd28 (_addr : RegAddr) (_x : Word) (s : State) : Host.Outcome State Fault Refusal :=
  .next (s.clock 0 writeNothing)

/-- RD_RSVD, indices 0x30..0x3F: `rdata <- 0x00000000` (R906). -/
def execRdRsvd30 (_addr : RegAddr) (_x : Word) (s : State) : Host.Outcome State Fault Refusal :=
  .next (s.clock 0 writeNothing)

end Sys2Proof.Machine
end

