-- ==== Sys2Proof/Machine/Writes.lean ====
section
/-! DEFINITION. The write transactions other than commands (45_register_access.md, section 2). A write drives
`rdata = 0` (R908). -/

namespace Sys2Proof.Machine

/-- WR_ID: "nothing changes" (R913). -/
def execWrId (_d : Word) (s : State) : Host.Outcome State Fault Refusal :=
  .next (s.clock 0 writeNothing)

/-- WR_VERSION: "nothing changes" (R913). -/
def execWrVersion (_d : Word) (s : State) : Host.Outcome State Fault Refusal :=
  .next (s.clock 0 writeNothing)

/-- WR_STATUS: `if wdata[2] == 1: ERR' <- 0`; the other bits are ignored (R910). -/
def execWrStatus (d : Word) (s : State) : Host.Outcome State Fault Refusal :=
  .next (s.clock 0 fun _ S1 => if clrErrBit d then S1.clearErr else S1)

/-- WR_MSG: `MSG[i]' <- v`, in every phase (R911). -/
def execWrMsg (i : BitVec 4) (d : Word) (s : State) : Host.Outcome State Fault Refusal :=
  .next (s.clock 0 fun _ S1 => S1.setMsgWord i d)

/-- WR_DIGEST: "nothing changes" (R913). -/
def execWrDigest (_i : BitVec 3) (_d : Word) (s : State) : Host.Outcome State Fault Refusal :=
  .next (s.clock 0 writeNothing)

/-- WR_RSVD, indices 0x04..0x07: "nothing changes" (R914). -/
def execWrRsvd04 (_addr : RegAddr) (_d : Word) (s : State) : Host.Outcome State Fault Refusal :=
  .next (s.clock 0 writeNothing)

/-- WR_RSVD, indices 0x08..0x0F: "nothing changes" (R914). -/
def execWrRsvd08 (_addr : RegAddr) (_d : Word) (s : State) : Host.Outcome State Fault Refusal :=
  .next (s.clock 0 writeNothing)

/-- WR_RSVD, indices 0x28..0x2F: "nothing changes" (R914). -/
def execWrRsvd28 (_addr : RegAddr) (_d : Word) (s : State) : Host.Outcome State Fault Refusal :=
  .next (s.clock 0 writeNothing)

/-- WR_RSVD, indices 0x30..0x3F: "nothing changes" (R914). -/
def execWrRsvd30 (_addr : RegAddr) (_d : Word) (s : State) : Host.Outcome State Fault Refusal :=
  .next (s.clock 0 writeNothing)

end Sys2Proof.Machine
end

