-- ==== Sys2Proof/Machine/Dispatch.lean ====
section
/-! DEFINITION. The dispatch of an instruction to its meaning, one arm per constructor of `Instr`. `exec i s` is the
whole clock cycle that carries the transaction `i` with `rst = 0` (R7, R720). -/

namespace Sys2Proof.Machine

def exec (i : Instr) (s : State) : Host.Outcome State Fault Refusal :=
  match i with
  | .cmdNop r => Sys2Proof.Machine.execCmdNop r s
  | .cmdInit r => Sys2Proof.Machine.execCmdInit r s
  | .cmdNext r => Sys2Proof.Machine.execCmdNext r s
  | .cmdFirst r => Sys2Proof.Machine.execCmdFirst r s
  | .cmdRsvd4 op r => Sys2Proof.Machine.execCmdRsvd4 op r s
  | .cmdRsvd8 op r => Sys2Proof.Machine.execCmdRsvd8 op r s
  | .rdId x => Sys2Proof.Machine.execRdId x s
  | .rdVersion x => Sys2Proof.Machine.execRdVersion x s
  | .rdCtrl x => Sys2Proof.Machine.execRdCtrl x s
  | .rdStatus x => Sys2Proof.Machine.execRdStatus x s
  | .rdMsg k x => Sys2Proof.Machine.execRdMsg k x s
  | .rdDigest k x => Sys2Proof.Machine.execRdDigest k x s
  | .rdRsvd04 addr x => Sys2Proof.Machine.execRdRsvd04 addr x s
  | .rdRsvd08 addr x => Sys2Proof.Machine.execRdRsvd08 addr x s
  | .rdRsvd28 addr x => Sys2Proof.Machine.execRdRsvd28 addr x s
  | .rdRsvd30 addr x => Sys2Proof.Machine.execRdRsvd30 addr x s
  | .wrId d => Sys2Proof.Machine.execWrId d s
  | .wrVersion d => Sys2Proof.Machine.execWrVersion d s
  | .wrStatus d => Sys2Proof.Machine.execWrStatus d s
  | .wrMsg k d => Sys2Proof.Machine.execWrMsg k d s
  | .wrDigest k d => Sys2Proof.Machine.execWrDigest k d s
  | .wrRsvd04 addr d => Sys2Proof.Machine.execWrRsvd04 addr d s
  | .wrRsvd08 addr d => Sys2Proof.Machine.execWrRsvd08 addr d s
  | .wrRsvd28 addr d => Sys2Proof.Machine.execWrRsvd28 addr d s
  | .wrRsvd30 addr d => Sys2Proof.Machine.execWrRsvd30 addr d s

end Sys2Proof.Machine
end

