-- ==== Sys2Proof/Machine/HostAgent.lean ====
section
/-! DEFINITION. The host, the second agent (R7): which transaction its next action presents, the clock cycle that
carries it (R720), and what the host does with the read data (R310). -/

namespace Sys2Proof.Machine

/-- The transaction word of a platform access: register index `i` is at byte address `SHA_BASE + 4*i` (R204); every
other access is refused by name (R206; log entry 5). -/
def PlatformAccess.toTxn (acc : PlatformAccess) : Except Refusal TWord :=
  if acc.bytes ≠ 4 then .error .platformWidth
  else if acc.byteAddr < Config.shaBase ∨ Config.shaBase + 256 ≤ acc.byteAddr then .error .platformOutsideBlock
  else if (acc.byteAddr - Config.shaBase) % 4 ≠ 0 then .error .platformMisaligned
  else .ok (TWord.make acc.we (BitVec.ofNat 6 ((acc.byteAddr - Config.shaBase) / 4)) (if acc.we then acc.data else 0))

/-- `RD <reg>` as a transaction word, `{0, index(reg), 0}` (R310). -/
def readWord (addr : RegAddr) : TWord := TWord.make false addr 0

/-- `WR <reg>, <imm32>` as a transaction word, `{1, index(reg), imm32}` (R310). -/
def writeWord (addr : RegAddr) (v : Word) : TWord := TWord.make true addr v

/-- What a host action presents on the bus in a cycle: no transaction (`cs = 0`) or one T word (R201, R310). -/
def HostOp.presents : HostOp → Except Refusal (Option TWord)
  | .idle => .ok none
  | .txn T => .ok (some T)
  | .poll addr _ _ => .ok (some (readWord addr))
  | .platform acc => acc.toTxn.map some

/-- `rst` in the coming cycle (R200); no entry is 0 (log entry 1). -/
def State.rstNow (s : State) : Bool := s.rstIn.headD false

/-- One clock cycle with the transaction `txn` (R720): reset overrides everything (R1105); with no transaction it is
an idle cycle (R907); a transaction runs its instruction. -/
def busCycle (txn : Option TWord) (s : State) : Host.Outcome State Fault Refusal :=
  if s.rstNow then .next (resetCycle s)
  else
    match txn with
    | none => .next (idleCycle s)
    | some T => exec (decode T) s

/-- "The host keeps rdata" (R310). -/
def State.keep (s : State) (v : Word) : State := { s with kept := s.kept ++ [v] }

/-- The host's actions after this one. -/
def State.withOps (s : State) (ops : List HostOp) : State := { s with hostOps := ops }

/-- The input `rst` of this cycle is used up. -/
def State.dropRst (s : State) : State := { s with rstIn := s.rstIn.tail }

/-- What the host does at the end of the cycle in which it performed `op`, `rest` being its actions after it: a read's
data is kept; a POLL goes on until `(rdata & mask) == val` (R310; log entries 6 and 7). -/
def HostOp.after (op : HostOp) (rest : List HostOp) (s : State) : State :=
  match op with
  | .idle => s.withOps rest
  | .txn T => if T.we then s.withOps rest else (s.withOps rest).keep s.out.rdata
  | .poll _ mask val => if s.out.rdata &&& mask = val then s.withOps rest else s
  | .platform acc => if acc.we then s.withOps rest else (s.withOps rest).keep s.out.rdata

/-- Apply `f` to the next state; a fault or a refusal stays. -/
def onNext (f : State → State) : Host.Outcome State Fault Refusal → Host.Outcome State Fault Refusal
  | .next s => .next (f s)
  | .fault r => .fault r
  | .refused r => .refused r

/-- A cycle in which the host performs `op`. -/
def hostCycle (op : HostOp) (rest : List HostOp) (s : State) : Host.Outcome State Fault Refusal :=
  match op.presents with
  | .error r => .refused r
  | .ok txn => onNext (fun t => op.after rest t.dropRst) (busCycle txn s)

/-- A cycle for which the host has no action: `cs = 0` (log entry 1). -/
def restCycle (s : State) : Host.Outcome State Fault Refusal := onNext State.dropRst (busCycle none s)

/-- Present `op` in the very next cycle, with `rst = 0` in it. -/
def State.presentFirst (s : State) (op : HostOp) : State :=
  { s with hostOps := op :: s.hostOps, rstIn := false :: s.rstIn }

/-- The T word whose low `nbits` bits are those of `w` and whose other bits are 0, for the host's question
(`withFetchWord`; log entry 12). -/
def tableTWord (nbits w : Nat) : TWord := BitVec.ofNat 39 (w % 2 ^ nbits)

end Sys2Proof.Machine
end

