-- ==== Sys2Proof/Machine/Step.lean ====
section
/-! DEFINITION. The step: one rising edge of `clk` (R720), with the inputs State holds. -/

namespace Sys2Proof.Machine

/-- One rising edge of `clk` (R7, R720): the cycle in which the host performs its next action, or none. -/
def step (s : State) : Host.Outcome State Fault Refusal :=
  match s.hostOps with
  | [] => restCycle s
  | op :: rest => hostCycle op rest s

/-- `s` with the transaction of the bits `w` as the host's very next action, in a cycle with `rst = 0`: how a
transaction reaches the block from outside (log entry 12). -/
def State.withFetchWord (s : State) (nbits w : Nat) : State := s.presentFirst (.txn (tableTWord nbits w))

end Sys2Proof.Machine
end

