-- ==== Sys2Proof/Machine/BusFunctions.lean ====
section
/-! DEFINITION. The spec's second description of a cycle: the total functions ReadValue (R908), HostWrite (R912) and
Step (R720), written over a T word and not over instructions. The machine does not run them; statements compare
`exec` with them. -/

namespace Sys2Proof.Machine

/-- `ReadValue(S, txn)`, its cases in the order of R908. -/
def readValue (S : Regs) : Option TWord → Word
  | none => 0
  | some T =>
    if T.we then 0
    else
      let a := T.addr.toNat
      if a = 0x00 then 0x53323536
      else if a = 0x01 then 0x00010000
      else if a = 0x02 then 0
      else if a = 0x03 then S.statusWord
      else if 0x10 ≤ a ∧ a ≤ 0x1F then S.msg.toList.getD (a - 0x10) 0
      else if 0x20 ≤ a ∧ a ≤ 0x27 then S.hash.toList.getD (a - 0x20) 0
      else 0

/-- `apply command wdata[3:0] to S' testing S.phase` (R912), from the pseudocode of R800 to R804. -/
def applyCommand (op : Nat) (S S' : Regs) : Regs :=
  match op with
  | 0 => S'
  | 1 =>
    if S.phase = .idle then { S' with hash := iv, valid := false } else { S' with err := true }
  | 2 =>
    if S.phase = .idle then
      { S' with
        work := ⟨S.hash[0], S.hash[1], S.hash[2], S.hash[3], S.hash[4], S.hash[5], S.hash[6], S.hash[7]⟩
        win := S.msg, t := 0, phase := .round, valid := false }
    else { S' with err := true }
  | 3 =>
    if S.phase = .idle then
      { S' with
        hash := iv
        work := ⟨iv[0], iv[1], iv[2], iv[3], iv[4], iv[5], iv[6], iv[7]⟩
        win := S.msg, t := 0, phase := .round, valid := false }
    else { S' with err := true }
  | _ => { S' with err := true }

/-- `HostWrite(S, S1, txn)`, its cases in the order of R912. -/
def hostWrite (S S1 : Regs) : Option TWord → Regs
  | none => S1
  | some T =>
    if T.we then
      let a := T.addr.toNat
      if a = 0x02 then applyCommand (T.wdata.toNat % 16) S S1
      else if a = 0x03 then if T.wdata.getLsbD 2 then { S1 with err := false } else S1
      else if 0x10 ≤ a ∧ a ≤ 0x1F then { S1 with msg := S1.msg.setIfInBounds (a - 0x10) T.wdata }
      else S1
    else S1

/-- `Step(S, rst, txn)` (R720): the next registers and the outputs of the cycle; `resetRdata` is the draw of R1202. -/
def specStep (resetRdata : Word) (S : Regs) (rst : Bool) (txn : Option TWord) : Regs × Outputs :=
  if rst then (Regs.reset, ⟨resetRdata, S.busy, S.valid⟩)
  else (hostWrite S (datapath S) txn, ⟨readValue S txn, S.busy, S.valid⟩)

end Sys2Proof.Machine
end

