-- ==== Sys2Proof/Machine/HostDuties.lean ====
section
/-! DEFINITION. The host's duties as pure functions: padding and packing (40_host_padding.md), digest bytes and hex
(46_digest_output.md), and the end-to-end function they make with `compress` (R1002). "They constrain the host
program, not the block's logic". -/

namespace Sys2Proof.Machine

/-- `BE64(n)`: byte k is `n[63-8k : 56-8k]` (R402). -/
def be64 (n : Nat) : List Byte := (List.range 8).map fun k => BitVec.ofNat 8 (n >>> (56 - 8 * k))

/-- The loop of R400: append 0x00 until the length in bits is 448 modulo 512. 64 turns are always enough (R401). -/
def padZeros : Nat → List Byte → List Byte
  | 0, P => P
  | fuel + 1, P => if (8 * P.length) % 512 = 448 then P else padZeros fuel (P ++ [0x00])

/-- The padded message (R400). -/
def pad (m : List Byte) : List Byte := padZeros 64 (m ++ [0x80]) ++ be64 (8 * m.length)

/-- Four bytes packed big-endian (R404). -/
def packWord (b0 b1 b2 b3 : Byte) : Word := b0 ++ b1 ++ b2 ++ b3

/-- Word `i` of block `j` of the padded message `P`: the packing of `P[64j+4i .. 64j+4i+3]` (R404). -/
def blockWord (P : List Byte) (j i : Nat) : Word :=
  packWord (P.getD (64 * j + 4 * i) 0) (P.getD (64 * j + 4 * i + 1) 0) (P.getD (64 * j + 4 * i + 2) 0)
    (P.getD (64 * j + 4 * i + 3) 0)

/-- Block `j` of the padded message, `Wj[0..15]` (R404). -/
def block (P : List Byte) (j : Nat) : Vector Word 16 := Vector.ofFn fun i => blockWord P j i.val

/-- The blocks of a message in sequence order: `N = len(P) / 64` of them (R404). -/
def blocksOf (m : List Byte) : List (Vector Word 16) := (List.range ((pad m).length / 64)).map (block (pad m))

/-- `H_0 = IV`, `H_{j+1} = Compress(H_j, Wj)` over all the blocks (R1002). -/
def hashBlocks (Ms : List (Vector Word 16)) : Vector Word 8 := Ms.foldl compress iv

/-- The four bytes of a word, most significant first (R1000). -/
def wordBytes (w : Word) : List Byte :=
  [w.extractLsb' 24 8, w.extractLsb' 16 8, w.extractLsb' 8 8, w.extractLsb' 0 8]

/-- The 32-byte Digest of eight DIGEST words: byte `4i + j` is `DIGEST_i[31-8j : 24-8j]` (R1000). -/
def digestBytes (H : Vector Word 8) : List Byte := H.toList.flatMap wordBytes

/-- `Sha256Digest(m)` (R1002), for messages within the length limit `8L < 2^64`; a longer one is refused: "the spec
gives such a message no digest and a model refuses it" (R403; log entry 10). -/
def sha256Digest (m : List Byte) : Option (List Byte) :=
  if 8 * m.length < 2 ^ 64 then some (digestBytes (hashBlocks (blocksOf m))) else none

/-- The digits `0123456789abcdef` (R1003). -/
def hexDigits : List Char :=
  ['0', '1', '2', '3', '4', '5', '6', '7', '8', '9', 'a', 'b', 'c', 'd', 'e', 'f']

/-- The hex digit of a nibble (R1003). -/
def hexDigit (n : BitVec 4) : Char := hexDigits.getD n.toNat '0'

/-- The HexString: byte `i` gives characters `2i` (bits 7:4) and `2i + 1` (bits 3:0) (R1003). -/
def hexRender (bytes : List Byte) : List Char :=
  bytes.flatMap fun b => [hexDigit (b.extractLsb' 4 4), hexDigit (b.extractLsb' 0 4)]

end Sys2Proof.Machine
end

