-- ==== Sys2Proof/Machine/HostProgram.lean ====
section
/-! DEFINITION. The host notation (R310, R311) as host actions, and the host's procedure for a message (R1002). -/

namespace Sys2Proof.Machine

/-- A register name of R203, or a raw index `@0xNN` (R310). -/
inductive RegName where
  | id
  | version
  | ctrl
  | status
  | msg (i : BitVec 4)
  | digest (i : BitVec 3)
  | raw (index : RegAddr)
deriving DecidableEq, Repr

/-- A line of a host program (R310). -/
inductive HostLine where
  /-- `WR <reg>, <imm32>`. -/
  | wr (reg : RegName) (imm : Word)
  /-- `RD <reg>`. -/
  | rd (reg : RegName)
  /-- `IDLE <n>`. -/
  | idle (n : Nat)
  /-- `POLL <reg>, <mask>, <val>`. -/
  | poll (reg : RegName) (mask val : Word)
deriving DecidableEq, Repr

/-- The index of a register name (R203). -/
def RegName.index : RegName → RegAddr
  | .id => 0x00
  | .version => 0x01
  | .ctrl => 0x02
  | .status => 0x03
  | .msg i => msgAddr i
  | .digest i => digestAddr i
  | .raw index => index

/-- The host actions of a line (R310). -/
def HostLine.ops : HostLine → List HostOp
  | .wr reg imm => [.txn (writeWord reg.index imm)]
  | .rd reg => [.txn (readWord reg.index)]
  | .idle n => List.replicate n .idle
  | .poll reg mask val => [.poll reg.index mask val]

/-- `NOP` (R311). -/
def lineNop : HostLine := .wr .ctrl 0x00000000
/-- `INIT` (R311). -/
def lineInit : HostLine := .wr .ctrl 0x00000001
/-- `NEXT` (R311). -/
def lineNext : HostLine := .wr .ctrl 0x00000002
/-- `FIRST` (R311). -/
def lineFirst : HostLine := .wr .ctrl 0x00000003
/-- `CLRERR` (R311). -/
def lineClrErr : HostLine := .wr .status 0x00000004
/-- `WAIT` (R311). -/
def lineWait : HostLine := .poll .status 0x00000001 0x00000000
/-- `LOADBLK w0, ..., w15`: 16 writes, MSG0 first (R311). -/
def linesLoadBlk (M : Vector Word 16) : List HostLine :=
  (List.range 16).map fun i => .wr (.msg (BitVec.ofNat 4 i)) (M.toList.getD i 0)
/-- `READDIG`: 8 reads, DIGEST0 first (R311). -/
def linesReadDig : List HostLine := (List.range 8).map fun i => .rd (.digest (BitVec.ofNat 3 i))

/-- The loop body of R1002 for one block: WAIT, LOADBLK, then the command. -/
def linesBlock (command : HostLine) (M : Vector Word 16) : List HostLine := lineWait :: linesLoadBlk M ++ [command]

/-- The procedure of R1002 for the blocks of a message: FIRST for block 0, NEXT for the others, a last WAIT and the
eight DIGEST reads. -/
def linesDigest : List (Vector Word 16) → List HostLine
  | [] => [lineWait] ++ linesReadDig
  | M :: Ms => linesBlock lineFirst M ++ Ms.flatMap (linesBlock lineNext) ++ [lineWait] ++ linesReadDig

/-- The host actions of lines. -/
def opsOf (lines : List HostLine) : List HostOp := lines.flatMap HostLine.ops

end Sys2Proof.Machine
end

