-- ==== Sys2Proof/Safety.lean ====
section
/-! DEFINITION. The terms of the statements: kinds of commands, runs, what a host action may be for the block to be
defined on it, and the invariant of the block's registers. -/

namespace Sys2Proof

/-- A command that tests the phase: INIT, NEXT or FIRST (R805). -/
def Instr.testsPhase (i : Instr) : Prop := i.row = .cmdInit ∨ i.row = .cmdNext ∨ i.row = .cmdFirst

/-- A reserved command, opcodes 0x4..0xF (R804). -/
def Instr.isReservedCommand (i : Instr) : Prop := i.row = .cmdRsvd4 ∨ i.row = .cmdRsvd8

end Sys2Proof

namespace Sys2Proof.Machine

/-- `k` clock cycles of the machine, stopping at a refusal. -/
abbrev run (k : Nat) (s : State) : Host.Outcome State Fault Refusal := Host.Core.run Sys2Proof.core k s

/-- `s` after a cycle that leaves the registers `regs'` and drives the read data `rdata`: `busy` and `valid` are those
of the current state (R720), and the host's side, the input `rst` and the draws are as before. -/
def State.cycled (s : State) (rdata : Word) (regs' : Regs) : State where
  regs := regs'
  out := ⟨rdata, decide (s.regs.phase ≠ .idle), s.regs.valid⟩
  hostOps := s.hostOps
  rstIn := s.rstIn
  kept := s.kept
  resetDraws := s.resetDraws

/-- No reset falls in the next `k` cycles. -/
def State.noReset (s : State) (k : Nat) : Prop := ∀ b ∈ s.rstIn.take k, b = false

/-- What the host presents on the bus in the coming cycle (R201, R720): what its next action presents, and no transaction
(`cs = 0`) where it has no action left (log entry 1). -/
def State.presents (s : State) : Except Refusal (Option TWord) :=
  match s.hostOps with
  | [] => .ok none
  | op :: _ => op.presents

/-- The action presents a transaction or none: it is no platform access that a model refuses (R206). -/
def HostOp.onBus (op : HostOp) : Prop := ∃ txn, op.presents = .ok txn

/-- The window and the working variables are those before round `n` of the compression of block `M` from hash state
`H` (R603, R700). -/
def Regs.beforeRound (S : Regs) (H : Vector Word 8) (M : Vector Word 16) (n : Nat) : Prop :=
  (∀ k : Fin 16, S.win[k] = schedule M (n + k)) ∧ S.work = workBefore H M n

/-- The invariant of the block's registers: t is 0 outside ROUND (R105); BUSY = 1 with VALID = 1 never occurs (R903);
and while a compression runs, the registers are those of the compression of some block from HASH (R603, R700). -/
structure Regs.Inv (S : Regs) : Prop where
  /-- "In phases IDLE and FINAL it holds 0" (R105). -/
  t_zero : S.phase ≠ .round → S.t = 0
  /-- "BUSY = 1 with VALID = 1 never occurs" (R903). -/
  busy_not_valid : S.phase ≠ .idle → S.valid = false
  /-- In ROUND the window and the working variables are those before round t. -/
  in_round : S.phase = .round → ∃ M, S.beforeRound S.hash M S.t.toNat
  /-- In FINAL all 64 rounds are done. -/
  in_final : S.phase = .final → ∃ M, S.beforeRound S.hash M 64

end Sys2Proof.Machine
end

