-- ==== Sys2Proof/Certificates/Slice0/Obligations.lean ====
section
/-! DEFINITION. The statements for the provers, one `def Obligations.<Name> : Prop` each, in the order of
OBLIGATIONS.json. Rules are those of spec/. -/

open Sys2Proof Sys2Proof.Machine

/-! ## Reset, the step and the two agents -/

/-- R114: what every register holds on reset. -/
def Obligations.ResetValueOfEveryRegister : Prop :=
  (∀ i : Fin 8, State.reset.regs.hash[i] = 0) ∧
  State.reset.regs.work = ⟨0, 0, 0, 0, 0, 0, 0, 0⟩ ∧
  (∀ i : Fin 16, State.reset.regs.msg[i] = 0) ∧
  (∀ i : Fin 16, State.reset.regs.win[i] = 0) ∧
  State.reset.regs.t = 0 ∧ State.reset.regs.phase = .idle ∧
  State.reset.regs.valid = false ∧ State.reset.regs.err = false ∧
  State.reset.regs.hash ≠ iv ∧ State.reset.regs.statusWord = 0

/-- R1200: a cycle with `rst = 1` leaves the reset state, whatever the current state (a running compression among
them) and whatever transaction is presented. -/
def Obligations.ResetCycleLeavesTheResetState : Prop :=
  ∀ s : State, s.rstNow = true → (∀ op ∈ s.hostOps.head?, op.onBus) →
    ∃ t, step s = .next t ∧ t.regs = State.reset.regs

/-- The model's form of `reset_rdata` (R1202; log entry 3): in a reset cycle the read data is the draw of the counter,
`busy` and `valid` follow the current state (R720), and the next reset cycle draws anew. It holds for every value of
`Config.resetRdata` and of the counter. That the reset input of the cycle is taken off its list is the model's choice
too (log entry 1). -/
def Obligations.ResetCycleDrivesTheDraw : Prop :=
  ∀ s : State, s.rstNow = true → (∀ op ∈ s.hostOps.head?, op.onBus) →
    ∃ t, step s = .next t ∧
      t.out = ⟨Config.resetRdata s.resetDraws, decide (s.regs.phase ≠ .idle), s.regs.valid⟩ ∧
      t.resetDraws = s.resetDraws + 1 ∧ t.rstIn = s.rstIn.tail

/-- An idle cycle (the idle cycle of 45_register_access.md section 1) reads 0, writes nothing, and runs the datapath;
`busy` and `valid` are those of the current state. That a host with no action left presents nothing, and that the action
and the reset input of the cycle are taken off their lists, is the model's choice (log entry 1). -/
def Obligations.IdleCycleRunsOnlyTheDatapath : Prop :=
  ∀ s : State, s.rstNow = false → s.presents = .ok none →
    step s = .next { s.cycled 0 (datapath s.regs) with hostOps := s.hostOps.tail, rstIn := s.rstIn.tail }

/-- A step whose host action is a transaction runs the decoded instruction. Around it the model takes the action and
the reset input off their lists (log entry 1) and keeps the read data of a read (log entry 6). -/
def Obligations.StepRunsTheDecodedInstruction : Prop :=
  ∀ (s : State) (T : TWord) (rest : List HostOp), s.rstNow = false → s.hostOps = .txn T :: rest →
    ∃ t u, exec (decode T) s = .next t ∧ step s = .next u ∧
      u.regs = t.regs ∧ u.out = t.out ∧ u.resetDraws = t.resetDraws ∧
      u.hostOps = rest ∧ u.rstIn = s.rstIn.tail ∧
      u.kept = if T.we then s.kept else s.kept ++ [t.out.rdata]

/-- `withFetchWord` presents exactly the transaction it is given (log entry 12): the next step runs the instruction
that the table word decodes to, and leaves the host's two lists (log entry 1) as they were. -/
def Obligations.FetchedTableWordRunsNext : Prop :=
  ∀ (s : State) (T : TWord),
    decodeTableWord 40 T.toNat = some (decode T) ∧
    ∃ t u, exec (decode T) s = .next t ∧ step (s.withFetchWord 40 T.toNat) = .next u ∧
      u.regs = t.regs ∧ u.out = t.out ∧ u.hostOps = s.hostOps ∧ u.rstIn = s.rstIn

/-- R310: a POLL presents `RD <reg>` in consecutive cycles until `(rdata & mask) == val`. That the POLL stays on the
host's list of actions until then and is taken off it at the end, and that the reset input of the cycle is taken off its
list, is the model's form of it (log entry 1); that its reads are not kept is the model's choice (log entry 6). -/
def Obligations.PollRepeatsTheReadUntilItMatches : Prop :=
  ∀ (s : State) (reg : RegName) (mask val : Word) (rest : List HostOp), s.rstNow = false →
    s.hostOps = (HostLine.poll reg mask val).ops ++ rest →
    ∃ t u, exec (decode (TWord.make false reg.index 0)) s = .next t ∧ step s = .next u ∧
      u.regs = t.regs ∧ u.out = t.out ∧ u.kept = s.kept ∧ u.rstIn = s.rstIn.tail ∧
      u.hostOps = if t.out.rdata &&& mask = val then rest else s.hostOps

/-- The machine's cycle is `Step(S, rst, txn)` (43_round_datapath.md section 3) with ReadValue, Datapath and HostWrite,
`draw` being `reset_rdata`, in every state whose host presents a transaction or none. That a host with no action left
presents none is the model's choice (log entry 1). -/
def Obligations.EveryCycleIsTheSpecStep : Prop :=
  ∀ (s : State) (txn : Option TWord), s.presents = .ok txn →
    ∃ u draw, step s = .next u ∧ (u.regs, u.out) = specStep draw s.regs s.rstNow txn

/-- No step faults (R1100), and a step refuses exactly the platform accesses of log entry 5 (R206, and the model's
choice for those outside the block); every other cycle completes. -/
def Obligations.StepRefusesOnlyPlatformAccesses : Prop :=
  ∀ s : State,
    ((∀ op ∈ s.hostOps.head?, op.onBus) ↔ ∃ t, step s = .next t) ∧
    (∀ r, step s = .refused r ↔
      ∃ acc rest, s.hostOps = .platform acc :: rest ∧ acc.toTxn = .error r)

/-- R204, R206: a platform access reaches the block exactly as a 32-bit access at `SHA_BASE + 4*i` with i < 64 (log
entry 5), and then is the transaction on register index i, whatever `SHA_BASE` is (log entry 4). -/
def Obligations.PlatformAccessReachesRegisterIndex : Prop :=
  ∀ acc : PlatformAccess,
    (∀ T, acc.toTxn = .ok T → acc.bytes = 4 ∧ acc.byteAddr = Config.shaBase + 4 * T.addr.toNat ∧ T.we = acc.we ∧
      (acc.we = true → T.wdata = acc.data)) ∧
    (∀ i : RegAddr, acc.bytes = 4 → acc.byteAddr = Config.shaBase + 4 * i.toNat → ∃ T, acc.toTxn = .ok T ∧ T.addr = i)

/-! ## Encoding -/

/-- A few of the T words of R306 decode to the transactions they stand for. -/
def Obligations.SpecExampleWordsDecode : Prop :=
  decode 0x4200000001 = .cmdInit 0 ∧ decode 0x4200000002 = .cmdNext 0 ∧ decode 0x4200000003 = .cmdFirst 0 ∧
  decode 0x4200000000 = .cmdNop 0 ∧ decode 0x4300000004 = .wrStatus 0x4 ∧ decode 0x0300000000 = .rdStatus 0 ∧
  decode 0x5061626380 = .wrMsg 0 0x61626380 ∧ decode 0x5f00000018 = .wrMsg 15 0x00000018 ∧
  decode 0x2000000000 = .rdDigest 0 0

/-- Decoding an encoded well-formed instruction gives it back, every operand bit with it (R300 to R305). -/
def Obligations.DecodeOfEncodeIsTheInstruction : Prop :=
  ∀ i : Instr, i.wf = true → decode (encode i) = i

/-- Every transaction word has one meaning: it decodes to a well-formed instruction whose encoding it is. -/
def Obligations.EncodeOfDecodeIsTheWord : Prop :=
  ∀ T : TWord, (decode T).wf = true ∧ encode (decode T) = T

/-- R305 with spec/opcode_table.json: every transaction word falls under exactly one row of the table, and it is the
row of the instruction it decodes to. -/
def Obligations.EveryWordFallsUnderExactlyOneTableRow : Prop :=
  ∀ (T : TWord) (row : Row), row.covers T = true ↔ (decode T).row = row

/-- R909 with R304: a CTRL write is dispatched on C[3:0], and C[31:4] is ignored. -/
def Obligations.CtrlWriteIsDispatchedOnTheOpcode : Prop :=
  ∀ (C : Word), ∃ r : BitVec 28,
    (C &&& 0xF = 0x0 → decode (TWord.make true 0x02 C) = .cmdNop r) ∧
    (C &&& 0xF = 0x1 → decode (TWord.make true 0x02 C) = .cmdInit r) ∧
    (C &&& 0xF = 0x2 → decode (TWord.make true 0x02 C) = .cmdNext r) ∧
    (C &&& 0xF = 0x3 → decode (TWord.make true 0x02 C) = .cmdFirst r) ∧
    (0x4 ≤ (C &&& 0xF).toNat → (decode (TWord.make true 0x02 C)).isReservedCommand) ∧
    (∀ (C' : Word) (s : State), C &&& 0xF = C' &&& 0xF →
      exec (decode (TWord.make true 0x02 C)) s = exec (decode (TWord.make true 0x02 C')) s)

/-- R307 with R300, R301: an instruction acts as one of its row in the canonical encoding, whose reserved bits and
don't-care data are 0. -/
def Obligations.EveryInstructionActsAsACanonicalOne : Prop :=
  ∀ i : Instr, i.wf = true →
    ∃ j : Instr, j.wf = true ∧ j.canonical = true ∧ j.row = i.row ∧ ∀ s : State, exec i s = exec j s

/-! ## Word operations and constants -/

/-- R503: bit i of ROTR(x, n) is bit (i + n) mod 32 of x, with the rule's corner cases and example. -/
def Obligations.RotateRightMovesEveryBit : Prop :=
  (∀ (x : Word) (n : Nat), 0 < n → n < 32 →
    rotr x n = (x >>> n) ||| (x <<< (32 - n)) ∧
    (∀ i < 32, (rotr x n).getLsbD i = x.getLsbD ((i + n) % 32)) ∧
    rotr 0 n = 0 ∧ rotr 0xFFFFFFFF n = 0xFFFFFFFF) ∧
  rotr 0x00000001 1 = 0x80000000 ∧ rotr 0x80000000 31 = 0x00000001 ∧ rotr 0x12345678 7 = 0xF02468AC

/-- R504: bit i of SHR(x, n) is bit i + n of x, or 0 past bit 31, with the rule's corner cases and example. -/
def Obligations.ShiftRightFillsWithZeros : Prop :=
  (∀ (x : Word) (n : Nat), 0 < n → n < 32 →
    shr x n = x >>> n ∧
    (∀ i < 32, (shr x n).getLsbD i = if i + n ≤ 31 then x.getLsbD (i + n) else false) ∧ shr 0x00000001 n = 0) ∧
  shr 0x80000000 31 = 0x00000001 ∧ shr 0x12345678 7 = 0x002468AC

/-- R505: Ch takes the bit of y where x has 1 and the bit of z where x has 0. -/
def Obligations.ChoiceTakesYWhereXIsOne : Prop :=
  (∀ x y z : Word, ch x y z = (x &&& y) ^^^ (~~~x &&& z) ∧ ch x y z = (x &&& y) ||| (~~~x &&& z) ∧
    (∀ i < 32, (ch x y z).getLsbD i = if x.getLsbD i then y.getLsbD i else z.getLsbD i) ∧
    ch 0 y z = z ∧ ch 0xFFFFFFFF y z = y ∧ ch x y y = y) ∧
  ch 0xF0F0F0F0 0xCCCCCCCC 0xAAAAAAAA = 0xCACACACA

/-- R506: Maj takes the value held by at least two of the three operand bits. -/
def Obligations.MajorityTakesTwoOfThree : Prop :=
  (∀ x y z : Word, maj x y z = (x &&& y) ^^^ (x &&& z) ^^^ (y &&& z) ∧
    maj x y z = (x &&& y) ||| (x &&& z) ||| (y &&& z) ∧
    (∀ i < 32, (maj x y z).getLsbD i =
      decide (2 ≤ (x.getLsbD i).toNat + (y.getLsbD i).toNat + (z.getLsbD i).toNat)) ∧
    maj x x z = x ∧ maj 0 0 z = 0 ∧ maj 0xFFFFFFFF 0xFFFFFFFF z = 0xFFFFFFFF ∧
    maj x y z = maj y x z ∧ maj x y z = maj x z y) ∧
  maj 0xF0F0F0F0 0xCCCCCCCC 0xAAAAAAAA = 0xE8E8E8E8

/-- R507 to R510: each bit of the four sigma functions, with the rules' corner cases and examples. -/
def Obligations.SigmaFunctionsMixTheirBits : Prop :=
  (∀ x : Word, ∀ i < 32,
    (bsig0 x).getLsbD i =
      ((x.getLsbD ((i + 2) % 32) ^^ x.getLsbD ((i + 13) % 32)) ^^ x.getLsbD ((i + 22) % 32)) ∧
    (bsig1 x).getLsbD i =
      ((x.getLsbD ((i + 6) % 32) ^^ x.getLsbD ((i + 11) % 32)) ^^ x.getLsbD ((i + 25) % 32)) ∧
    (ssig0 x).getLsbD i =
      ((x.getLsbD ((i + 7) % 32) ^^ x.getLsbD ((i + 18) % 32)) ^^ (decide (i + 3 ≤ 31) && x.getLsbD (i + 3))) ∧
    (ssig1 x).getLsbD i =
      ((x.getLsbD ((i + 17) % 32) ^^ x.getLsbD ((i + 19) % 32)) ^^ (decide (i + 10 ≤ 31) && x.getLsbD (i + 10)))) ∧
  (bsig0 0 = 0 ∧ bsig0 0xFFFFFFFF = 0xFFFFFFFF ∧ bsig0 0x00000001 = 0x40080400 ∧ bsig0 0x6A09E667 = 0xCE20B47E) ∧
  (bsig1 0 = 0 ∧ bsig1 0xFFFFFFFF = 0xFFFFFFFF ∧ bsig1 0x00000001 = 0x04200080 ∧ bsig1 0x510E527F = 0x3587272B) ∧
  (ssig0 0 = 0 ∧ ssig0 0xFFFFFFFF = 0x1FFFFFFF ∧ ssig0 0x80000000 = 0x11002000 ∧ ssig0 0x12345678 = 0xE7FCE6EE) ∧
  (ssig1 0 = 0 ∧ ssig1 0xFFFFFFFF = 0x003FFFFF ∧ ssig1 0x00000001 = 0x0000A000 ∧ ssig1 0x12345678 = 0xA1F78649)

/-- R511: the sigma functions are linear over GF(2); Ch and Maj are not. -/
def Obligations.SigmaFunctionsAreLinear : Prop :=
  (∀ f ∈ [bsig0, bsig1, ssig0, ssig1], f 0 = 0 ∧ ∀ x y : Word, f (x ^^^ y) = f x ^^^ f y) ∧
  (¬ ∀ x y z x' y' z' : Word, ch (x ^^^ x') (y ^^^ y') (z ^^^ z') = ch x y z ^^^ ch x' y' z') ∧
  (¬ ∀ x y z x' y' z' : Word, maj (x ^^^ x') (y ^^^ y') (z ^^^ z') = maj x y z ^^^ maj x' y' z')

/-- R520, R521, R522: the table of primes holds the first 64 primes in order, and IV and K are the first 32 bits of
the fractional parts of the square roots of the first 8 and of the cube roots of the 64. -/
def Obligations.ConstantsAreRootsOfPrimes : Prop :=
  (primes.length = 64 ∧ primes.Pairwise (· < ·) ∧ ∀ p, p ∈ primes ↔ p.Prime ∧ p ≤ 311) ∧
  (∀ i : Fin 8, ∃ r, r ^ 2 ≤ primes.getD i 0 * 2 ^ 64 ∧ primes.getD i 0 * 2 ^ 64 < (r + 1) ^ 2 ∧
    iv[i].toNat = r % 2 ^ 32) ∧
  (∀ t < 64, ∃ r, r ^ 3 ≤ primes.getD t 0 * 2 ^ 96 ∧ primes.getD t 0 * 2 ^ 96 < (r + 1) ^ 3 ∧
    (kAt t).toNat = r % 2 ^ 32)

/-! ## The scheduler -/

/-- R604: the schedule is the block's words and then the recurrence. -/
def Obligations.ScheduleFollowsTheRecurrence : Prop :=
  ∀ M : Vector Word 16,
    (∀ (t : Nat) (h : t < 16), schedule M t = M[t]) ∧
    (∀ t, 16 ≤ t →
      schedule M t =
        ssig1 (schedule M (t - 2)) + schedule M (t - 7) + ssig0 (schedule M (t - 15)) + schedule M (t - 16))

/-- R603, R605: a window loaded with a block and shifted n times holds W[n..n+15], so that its first word is W[n]. -/
def Obligations.ShiftedWindowHoldsTheSchedule : Prop :=
  ∀ (M : Vector Word 16) (n : Nat) (k : Fin 16), (shiftWindow^[n] M)[k] = schedule M (n + k)

/-! ## The datapath -/

/-- R710 with R701 and R602: a ROUND cycle performs round t with the window's first word, shifts the window, and
advances t, or goes on to FINAL from t = 63; it writes nothing else. -/
def Obligations.RoundCyclePerformsOneRound : Prop :=
  ∀ S : Regs, S.phase = .round →
    let v := S.work
    let T1 := v.h + bsig1 v.e + ch v.e v.f v.g + kAt S.t.toNat + S.win[0]
    let T2 := bsig0 v.a + maj v.a v.b v.c
    datapath S =
      { hash := S.hash, msg := S.msg, valid := S.valid, err := S.err
        work := { a := T1 + T2, b := v.a, c := v.b, d := v.c, e := v.d + T1, f := v.e, g := v.f, h := v.g }
        win := Vector.ofFn fun i : Fin 16 =>
          if h : i.val < 15 then S.win[i.val + 1] else ssig1 S.win[14] + S.win[9] + ssig0 S.win[1] + S.win[0]
        phase := if S.t = 63 then .final else .round
        t := if S.t = 63 then 0 else S.t + 1 }

/-- R712: a FINAL cycle adds the working variables into HASH. -/
def Obligations.FinalCycleAddsIntoHash : Prop :=
  ∀ S : Regs, S.phase = .final →
    let H := S.hash
    let v := S.work
    datapath S =
      { hash := #v[H[0] + v.a, H[1] + v.b, H[2] + v.c, H[3] + v.d, H[4] + v.e, H[5] + v.f, H[6] + v.g, H[7] + v.h]
        work := v, msg := S.msg, win := S.win, t := S.t, phase := .idle, valid := true, err := S.err }

/-! ## Commands -/

/-- R800: CMD_NOP changes no register, in every phase, and is no error; its reserved bits are ignored. -/
def Obligations.NopOnlyLetsTheDatapathRun : Prop :=
  ∀ (r : BitVec 28) (s : State),
    decode (TWord.make true 0x02 (r ++ 0x0#4)) = .cmdNop r ∧
    exec (.cmdNop r) s = .next (s.cycled 0 (datapath s.regs))

/-- R801: CMD_INIT loads IV and clears VALID when idle, and sets ERR and nothing else when busy. -/
def Obligations.InitLoadsIvOrIsRejected : Prop :=
  ∀ (r : BitVec 28) (s : State),
    decode (TWord.make true 0x02 (r ++ 0x1#4)) = .cmdInit r ∧
    (s.regs.phase = .idle →
      exec (.cmdInit r) s = .next (s.cycled 0 { s.regs with hash := iv, valid := false })) ∧
    (s.regs.phase ≠ .idle →
      exec (.cmdInit r) s = .next (s.cycled 0 { datapath s.regs with err := true }))

/-- R802: CMD_NEXT starts a compression from HASH when idle, and sets ERR and nothing else when busy. -/
def Obligations.NextStartsACompressionOrIsRejected : Prop :=
  ∀ (r : BitVec 28) (s : State),
    decode (TWord.make true 0x02 (r ++ 0x2#4)) = .cmdNext r ∧
    (s.regs.phase = .idle →
      let H := s.regs.hash
      exec (.cmdNext r) s = .next (s.cycled 0
        { s.regs with
          work := { a := H[0], b := H[1], c := H[2], d := H[3], e := H[4], f := H[5], g := H[6], h := H[7] }
          win := s.regs.msg, t := 0, phase := .round, valid := false })) ∧
    (s.regs.phase ≠ .idle →
      exec (.cmdNext r) s = .next (s.cycled 0 { datapath s.regs with err := true }))

/-- R803: CMD_FIRST loads IV into HASH and into the working variables and starts a compression when idle, and sets ERR
and nothing else when busy. -/
def Obligations.FirstStartsFromIvOrIsRejected : Prop :=
  ∀ (r : BitVec 28) (s : State),
    decode (TWord.make true 0x02 (r ++ 0x3#4)) = .cmdFirst r ∧
    (s.regs.phase = .idle →
      exec (.cmdFirst r) s = .next (s.cycled 0
        { s.regs with
          hash := iv
          work := { a := iv[0], b := iv[1], c := iv[2], d := iv[3], e := iv[4], f := iv[5], g := iv[6], h := iv[7] }
          win := s.regs.msg, t := 0, phase := .round, valid := false })) ∧
    (s.regs.phase ≠ .idle →
      exec (.cmdFirst r) s = .next (s.cycled 0 { datapath s.regs with err := true }))

/-- R804: a reserved command sets ERR in every phase and does nothing else, so that a running compression goes on. -/
def Obligations.ReservedCommandSetsErr : Prop :=
  ∀ (op : BitVec 4) (r : BitVec 28) (s : State),
    (0x4 ≤ op.toNat → op.toNat ≤ 0x7 → decode (TWord.make true 0x02 (r ++ op)) = .cmdRsvd4 op r) ∧
    (0x8 ≤ op.toNat → decode (TWord.make true 0x02 (r ++ op)) = .cmdRsvd8 op r) ∧
    exec (.cmdRsvd4 op r) s = .next (s.cycled 0 { datapath s.regs with err := true }) ∧
    exec (.cmdRsvd8 op r) s = .next (s.cycled 0 { datapath s.regs with err := true })

/-- R808, which the spec derives from R801 to R804, with R805: a command that is rejected changes nothing but ERR: the
registers are those that an idle cycle leaves, with ERR set. It is rejected exactly when the current state's phase is
not IDLE, or its opcode is reserved. -/
def Obligations.RejectedCommandChangesOnlyErr : Prop :=
  ∀ (i : Instr) (s : State), (i.testsPhase ∧ s.regs.phase ≠ .idle) ∨ i.isReservedCommand →
    ∃ t, exec i s = .next t ∧ t.regs.hash = (idleCycle s).regs.hash ∧ t.regs.valid = (idleCycle s).regs.valid ∧
      t.regs.msg = (idleCycle s).regs.msg ∧ t.regs.work = (idleCycle s).regs.work ∧
      t.regs.win = (idleCycle s).regs.win ∧ t.regs.t = (idleCycle s).regs.t ∧
      t.regs.phase = (idleCycle s).regs.phase ∧ t.regs.err = true

/-! ## Register access -/

/-- R900, R901, R902, R906: the constant reads answer their constant in every phase and change nothing. -/
def Obligations.ConstantReadsAnswerTheirConstant : Prop :=
  ∀ (x : Word) (addr : RegAddr) (s : State),
    (decode (TWord.make false 0x00 x) = .rdId x ∧
      exec (.rdId x) s = .next (s.cycled 0x53323536 (datapath s.regs))) ∧
    (decode (TWord.make false 0x01 x) = .rdVersion x ∧
      exec (.rdVersion x) s = .next (s.cycled 0x00010000 (datapath s.regs))) ∧
    (decode (TWord.make false 0x02 x) = .rdCtrl x ∧ exec (.rdCtrl x) s = .next (s.cycled 0 (datapath s.regs))) ∧
    ((0x04 ≤ addr.toNat → addr.toNat ≤ 0x07 → decode (TWord.make false addr x) = .rdRsvd04 addr x) ∧
      exec (.rdRsvd04 addr x) s = .next (s.cycled 0 (datapath s.regs))) ∧
    ((0x08 ≤ addr.toNat → addr.toNat ≤ 0x0F → decode (TWord.make false addr x) = .rdRsvd08 addr x) ∧
      exec (.rdRsvd08 addr x) s = .next (s.cycled 0 (datapath s.regs))) ∧
    ((0x28 ≤ addr.toNat → addr.toNat ≤ 0x2F → decode (TWord.make false addr x) = .rdRsvd28 addr x) ∧
      exec (.rdRsvd28 addr x) s = .next (s.cycled 0 (datapath s.regs))) ∧
    ((0x30 ≤ addr.toNat → addr.toNat ≤ 0x3F → decode (TWord.make false addr x) = .rdRsvd30 addr x) ∧
      exec (.rdRsvd30 addr x) s = .next (s.cycled 0 (datapath s.regs)))

/-- R903: STATUS shows BUSY in bit 0, VALID in bit 1 and ERR in bit 2, its other bits read 0, and reading it clears
nothing; after reset it is 0. -/
def Obligations.StatusReadShowsTheThreeFlags : Prop :=
  ∀ (x : Word) (s : State),
    decode (TWord.make false 0x03 x) = .rdStatus x ∧
    ∃ v : Word,
      exec (.rdStatus x) s = .next (s.cycled v (datapath s.regs)) ∧
      v.getLsbD 0 = decide (s.regs.phase ≠ .idle) ∧ v.getLsbD 1 = s.regs.valid ∧ v.getLsbD 2 = s.regs.err ∧
      (∀ i, 3 ≤ i → v.getLsbD i = false) ∧
      (s.regs = State.reset.regs → v = 0)

/-- R904, R911: WR_MSG writes its word in every phase and nothing else; RD_MSG returns the word last written, or 0
after reset. -/
def Obligations.MsgWordReadsBackWhatWasWritten : Prop :=
  ∀ (i : BitVec 4) (x d : Word) (s : State),
    decode (TWord.make false (0x10 + i.setWidth 6) x) = .rdMsg i x ∧
    decode (TWord.make true (0x10 + i.setWidth 6) d) = .wrMsg i d ∧
    exec (.rdMsg i x) s = .next (s.cycled s.regs.msg[i.toNat] (datapath s.regs)) ∧
    (s.regs = State.reset.regs → exec (.rdMsg i x) s = .next (s.cycled 0 (datapath s.regs))) ∧
    ∃ t, exec (.wrMsg i d) s = .next t ∧
      t = s.cycled 0 { datapath s.regs with msg := t.regs.msg } ∧
      (∀ j : BitVec 4, t.regs.msg[j.toNat] = if j = i then d else s.regs.msg[j.toNat]) ∧
      exec (.rdMsg i x) t = .next (t.cycled d (datapath t.regs))

/-- R905: RD_DIGEST returns HASH[i] of the current state: in the FINAL cycle and before it the HASH from before the
compression, after INIT IV[i], after reset 0. -/
def Obligations.DigestReadReturnsHash : Prop :=
  ∀ (i : BitVec 3) (x : Word) (s : State),
    decode (TWord.make false (0x20 + i.setWidth 6) x) = .rdDigest i x ∧
    exec (.rdDigest i x) s = .next (s.cycled s.regs.hash[i.toNat] (datapath s.regs)) ∧
    (s.regs = State.reset.regs → exec (.rdDigest i x) s = .next (s.cycled 0 (datapath s.regs))) ∧
    (∀ (r : BitVec 28) (t : State), s.regs.phase = .idle → exec (.cmdInit r) s = .next t →
      exec (.rdDigest i x) t = .next (t.cycled iv[i.toNat] (datapath t.regs))) ∧
    (∀ (j : Instr) (t : State), s.regs.phase = .round → exec j s = .next t →
      exec (.rdDigest i x) t = .next (t.cycled s.regs.hash[i.toNat] (datapath t.regs)))

/-- R910: a STATUS write clears ERR when bit 2 is 1 and ignores its other bits, in every phase. -/
def Obligations.StatusWriteClearsErrByBitTwo : Prop :=
  ∀ (d : Word) (s : State),
    decode (TWord.make true 0x03 d) = .wrStatus d ∧
    exec (.wrStatus d) s = .next (s.cycled 0
      { datapath s.regs with err := if d.getLsbD 2 then false else s.regs.err })

/-- R913, R914: writes to read-only registers and to reserved indices change nothing and set no flag. -/
def Obligations.ReadOnlyAndReservedWritesAreIgnored : Prop :=
  ∀ (d : Word) (i : BitVec 3) (addr : RegAddr) (s : State),
    (decode (TWord.make true 0x00 d) = .wrId d ∧ exec (.wrId d) s = .next (s.cycled 0 (datapath s.regs))) ∧
    (decode (TWord.make true 0x01 d) = .wrVersion d ∧
      exec (.wrVersion d) s = .next (s.cycled 0 (datapath s.regs))) ∧
    (decode (TWord.make true (0x20 + i.setWidth 6) d) = .wrDigest i d ∧
      exec (.wrDigest i d) s = .next (s.cycled 0 (datapath s.regs))) ∧
    ((0x04 ≤ addr.toNat → addr.toNat ≤ 0x07 → decode (TWord.make true addr d) = .wrRsvd04 addr d) ∧
      exec (.wrRsvd04 addr d) s = .next (s.cycled 0 (datapath s.regs))) ∧
    ((0x08 ≤ addr.toNat → addr.toNat ≤ 0x0F → decode (TWord.make true addr d) = .wrRsvd08 addr d) ∧
      exec (.wrRsvd08 addr d) s = .next (s.cycled 0 (datapath s.regs))) ∧
    ((0x28 ≤ addr.toNat → addr.toNat ≤ 0x2F → decode (TWord.make true addr d) = .wrRsvd28 addr d) ∧
      exec (.wrRsvd28 addr d) s = .next (s.cycled 0 (datapath s.regs))) ∧
    ((0x30 ≤ addr.toNat → addr.toNat ≤ 0x3F → decode (TWord.make true addr d) = .wrRsvd30 addr d) ∧
      exec (.wrRsvd30 addr d) s = .next (s.cycled 0 (datapath s.regs)))

/-- R209: no read has a side effect; a MSG write is idempotent, its repetition doing what an idle cycle does; and a
write to an index other than CTRL, STATUS and MSG is ignored. -/
def Obligations.ReadsAndIgnoredWritesHaveNoSideEffect : Prop :=
  (∀ (T : TWord) (s : State), T.we = false → ∃ t, exec (decode T) s = .next t ∧ t.regs = (idleCycle s).regs) ∧
  (∀ (T : TWord) (s : State), T.we = true → 0x10 ≤ T.addr.toNat → T.addr.toNat ≤ 0x1F →
    ∃ t u, exec (decode T) s = .next t ∧ exec (decode T) t = .next u ∧ u.regs = (idleCycle t).regs) ∧
  (∀ (T : TWord) (s : State), T.we = true → T.addr ≠ 0x02 → T.addr ≠ 0x03 →
    ¬ (0x10 ≤ T.addr.toNat ∧ T.addr.toNat ≤ 0x1F) → ∃ t, exec (decode T) s = .next t ∧ t.regs = (idleCycle s).regs)

/-- The frame by register slots: from an idle state, a transaction changes what a slot reads only where the slot is
the MSG word it writes, STATUS, or a DIGEST word loaded with IV. The slot written is computed from the transaction
word. -/
def Obligations.TransactionChangesOnlyItsOwnSlot : Prop :=
  ∀ (T : TWord) (s t : State) (a : RegAddr), s.regs.phase = .idle → exec (decode T) s = .next t →
    readValue t.regs (some (readWord a)) ≠ readValue s.regs (some (readWord a)) →
    T.we = true ∧
      ((a = T.addr ∧ 0x10 ≤ a.toNat ∧ a.toNat ≤ 0x1F) ∨
       (a = 0x03 ∧ (T.addr = 0x02 ∨ T.addr = 0x03)) ∨
       (0x20 ≤ a.toNat ∧ a.toNat ≤ 0x27 ∧ T.addr = 0x02 ∧ (T.wdata &&& 0xF = 1 ∨ T.wdata &&& 0xF = 3)))

/-! ## Rules of the whole machine -/

/-- R101: HASH is written only by reset, by INIT and FIRST (with IV) and by the final addition. -/
def Obligations.HashIsWrittenOnlyByItsWriters : Prop :=
  ∀ s t : State, step s = .next t →
    (s.rstNow = true ∧ t.regs.hash = Vector.replicate 8 0) ∨
    (s.rstNow = false ∧ s.regs.phase = .final ∧ t.regs.hash = addWork s.regs.hash s.regs.work) ∨
    (s.rstNow = false ∧ s.regs.phase = .idle ∧ t.regs.hash = iv ∧
      ∃ op T, s.hostOps.head? = some op ∧ op.presents = .ok (some T) ∧
        ((decode T).row = .cmdInit ∨ (decode T).row = .cmdFirst)) ∨
    (s.rstNow = false ∧ t.regs.hash = s.regs.hash)

/-- R103: MSG is written only by a host write of MSG, or by reset; the core never writes it. -/
def Obligations.MsgIsWrittenOnlyByTheHost : Prop :=
  ∀ s t : State, step s = .next t → t.regs.msg ≠ s.regs.msg →
    (s.rstNow = true ∧ t.regs.msg = Vector.replicate 16 0) ∨
    (s.rstNow = false ∧ ∃ op T i d, s.hostOps.head? = some op ∧ op.presents = .ok (some T) ∧
      decode T = .wrMsg i d ∧ t.regs.msg = s.regs.msg.set i.toNat d)

/-- R107: VALID is set by the final addition and cleared by an accepted INIT, NEXT or FIRST; while it stays set, HASH
stays as it is. -/
def Obligations.ValidIsSetByFinalAndClearedByCommands : Prop :=
  ∀ (i : Instr) (s : State), ∃ t, exec i s = .next t ∧
    (s.regs.phase = .final → t.regs.valid = true) ∧
    (s.regs.phase = .idle → i.testsPhase → t.regs.valid = false) ∧
    (s.regs.phase ≠ .final → ¬ (s.regs.phase = .idle ∧ i.testsPhase) → t.regs.valid = s.regs.valid) ∧
    (s.regs.Inv → s.regs.valid = true → t.regs.valid = true → t.regs.hash = s.regs.hash)

/-- R1101, R1102, R1103: ERR is set by exactly a command while busy and a reserved command, cleared by exactly a
STATUS write with bit 2 set, and what it holds has no effect on the block's operation. -/
def Obligations.ErrIsSetAndClearedByExactlyTheseEvents : Prop :=
  ∀ (i : Instr) (s : State), ∃ t, exec i s = .next t ∧
    (((i.testsPhase ∧ s.regs.phase ≠ .idle) ∨ i.isReservedCommand) → t.regs.err = true) ∧
    ((∃ d, i = .wrStatus d ∧ d.getLsbD 2 = true) → t.regs.err = false) ∧
    (¬ ((i.testsPhase ∧ s.regs.phase ≠ .idle) ∨ i.isReservedCommand) →
      ¬ (∃ d, i = .wrStatus d ∧ d.getLsbD 2 = true) → t.regs.err = s.regs.err) ∧
    (∀ e : Bool, ∃ u, exec i { s with regs := { s.regs with err := e } } = .next u ∧
      { u.regs with err := t.regs.err } = t.regs)

/-- R721, which the spec derives, with R713: in one step the datapath and the host write disjoint registers: while
busy the host writes at most MSG and ERR, which the datapath never writes, so that the cycle is the same in either
order; when idle the datapath writes nothing. -/
def Obligations.DatapathAndHostWriteDisjointRegisters : Prop :=
  ∀ (T : TWord) (S S1 : Regs),
    (S.phase ≠ .idle →
      hostWrite S S1 (some T) = { S1 with msg := (hostWrite S S1 (some T)).msg, err := (hostWrite S S1 (some T)).err } ∧
      (datapath S).msg = S.msg ∧ (datapath S).err = S.err ∧
      hostWrite S (datapath S) (some T) =
        { datapath S with msg := (hostWrite S S (some T)).msg, err := (hostWrite S S (some T)).err }) ∧
    (S.phase = .idle → datapath S = S)

/-- R215, R1222: MSG does not reach a running compression: two busy states that differ only in MSG differ only in MSG
after any transaction, whichever words it writes. -/
def Obligations.MsgDoesNotReachARunningCompression : Prop :=
  ∀ (i : Instr) (s : State) (M : Vector Word 16), s.regs.phase ≠ .idle →
    ∃ t u, exec i s = .next t ∧ exec i { s with regs := { s.regs with msg := M } } = .next u ∧
      { u.regs with msg := t.regs.msg } = t.regs

/-- R113, R1112: the host cannot observe a..h, WIN or t: two states that agree on HASH, MSG, phase, VALID and ERR
drive the same outputs in every transaction. -/
def Obligations.InternalRegistersAreNotReadable : Prop :=
  ∀ (i : Instr) (s : State) (v : Work) (win : Vector Word 16) (n : BitVec 6),
    ∃ t u, exec i s = .next t ∧
      exec i { s with regs := { s.regs with work := v, win := win, t := n } } = .next u ∧ u.out = t.out

/-- The reset registers meet the invariant. -/
def Obligations.ResetRegistersMeetTheInvariant : Prop := State.reset.regs.Inv

/-- Every step keeps the invariant of the registers, from every state that meets it: t is 0 outside ROUND, BUSY and
VALID are never both 1, and a running compression holds the window and the working variables of some block's
compression from HASH. -/
def Obligations.EveryStepKeepsTheRegisterInvariant : Prop :=
  ∀ s t : State, s.regs.Inv → step s = .next t → t.regs.Inv

/-! ## A compression from acceptance to result -/

/-- R711, R714, which the spec derives from R710 and R712: a NEXT or FIRST accepted in cycle N performs round n in
cycle N+1+n, has its FINAL cycle in N+65, and in cycle N+66 leaves HASH = Compress(H, M) and VALID = 1, where M is MSG
in cycle N and H is HASH in cycle N for NEXT and IV for FIRST, whatever the host presents meanwhile. -/
def Obligations.AcceptedCompressionEndsInCycleSixtySix : Prop :=
  ∀ (s : State) (op : HostOp) (rest : List HostOp) (T : TWord) (r : BitVec 28) (H : Vector Word 8),
    s.regs.phase = .idle → s.hostOps = op :: rest → op.presents = .ok (some T) →
    (decode T = .cmdNext r ∧ H = s.regs.hash) ∨ (decode T = .cmdFirst r ∧ H = iv) →
    (∀ p ∈ rest, p.onBus) → s.noReset 66 →
    (∀ n < 64, ∃ u, run (n + 1) s = .next u ∧ u.regs.phase = .round ∧ u.regs.t.toNat = n ∧ u.regs.valid = false ∧
      u.regs.hash = H ∧ u.regs.beforeRound H s.regs.msg n) ∧
    (∃ u, run 65 s = .next u ∧ u.regs.phase = .final ∧ u.regs.valid = false ∧ u.regs.hash = H) ∧
    (∃ u, run 66 s = .next u ∧ u.regs.phase = .idle ∧ u.regs.valid = true ∧
      u.regs.hash = compress H s.regs.msg)

/-- R805, which the spec derives, and R1220: after an accepted NEXT or FIRST in cycle N, a command in cycles N+1..N+65
is rejected and one in cycle N+66 is accepted. -/
def Obligations.CommandsAreRejectedForSixtyFiveCycles : Prop :=
  ∀ (s : State) (op : HostOp) (rest : List HostOp) (T : TWord),
    s.regs.phase = .idle → s.hostOps = op :: rest → op.presents = .ok (some T) →
    (decode T).row = .cmdNext ∨ (decode T).row = .cmdFirst → (∀ p ∈ rest, p.onBus) → s.noReset 66 →
    (∀ k, 1 ≤ k → k ≤ 65 → ∃ u, run k s = .next u ∧ u.out.busy = decide (k ≠ 1) ∧ ∀ i : Instr, i.testsPhase →
      exec i u = .next (u.cycled 0 { datapath u.regs with err := true })) ∧
    (∃ u, run 66 s = .next u ∧ ∀ i : Instr, i.testsPhase → ∃ t, exec i u = .next t ∧ t.regs.err = u.regs.err ∧
      t.regs.valid = false ∧ t.regs.phase = if i.row = .cmdInit then .idle else .round)

/-- R806, which the spec derives: FIRST in cycle N, and INIT in cycle N followed by NEXT in cycle N+1, leave the same
HASH, VALID and ERR, and the same other registers, once each sequence completes, the second one cycle later. After the
commands the host may do anything on the bus in both sequences, MSG, STATUS and CTRL writes among it. -/
def Obligations.FirstEqualsInitThenNext : Prop :=
  ∀ (s : State) (rest : List HostOp), s.regs.phase = .idle → (∀ p ∈ rest, p.onBus) → s.noReset 67 →
    ∃ u v, run 66 { s with hostOps := lineFirst.ops ++ rest } = .next u ∧
      run 67 { s with hostOps := lineInit.ops ++ lineNext.ops ++ rest } = .next v ∧
      u.regs.hash = v.regs.hash ∧ u.regs.valid = v.regs.valid ∧ u.regs.err = v.regs.err ∧
      u.regs.phase = .idle ∧ v.regs.phase = .idle ∧ u.regs = v.regs

/-! ## The host's duties and the end-to-end function -/

/-- R400, R402: the padded message is the message, 0x80, zeros only until the length in bits is 448 modulo 512, and
the message's length in bits as eight bytes, byte k of BE64(n) being `n[63-8k : 56-8k]`. -/
def Obligations.PaddedMessageHasItsShape : Prop :=
  (∀ m : List Byte, ∃ z : Nat,
    pad m = m ++ [0x80] ++ List.replicate z 0x00 ++ be64 (8 * m.length) ∧
    (8 * (m.length + 1 + z)) % 512 = 448 ∧ (∀ y < z, (8 * (m.length + 1 + y)) % 512 ≠ 448) ∧
    (8 * (pad m).length) % 512 = 0) ∧
  (∀ n : Nat, (be64 n).length = 8 ∧
    ∀ k < 8, ∀ b < 8, ((be64 n).getD k 0).getLsbD b = n.testBit (56 - 8 * k + b))

/-- The size of the padding and the number of blocks, which the spec derives from R400 (R401). -/
def Obligations.PaddingSizeAndBlockCount : Prop :=
  ∀ m : List Byte, ∃ z : Nat, (z : Int) = (55 - (m.length : Int)) % 64 ∧
    pad m = m ++ [0x80] ++ List.replicate z 0x00 ++ be64 (8 * m.length) ∧
    (pad m).length = m.length + 1 + z + 8 ∧ (blocksOf m).length = (m.length + 8) / 64 + 1

/-- R404: word i of block j holds P[64j+4i] in bits 31:24 down to P[64j+4i+3] in bits 7:0. -/
def Obligations.BlockWordsArePackedBigEndian : Prop :=
  ∀ (m : List Byte) (j : Nat) (h : j < (blocksOf m).length) (i : Fin 16) (k b : Nat), k < 4 → b < 8 →
    64 * j + 4 * i + k < (pad m).length ∧
    ((blocksOf m)[j])[i].getLsbD (24 - 8 * k + b) = ((pad m).getD (64 * j + 4 * i + k) 0).getLsbD b

/-- R403: exactly the messages of 2^61 bytes or more get no digest. -/
def Obligations.OnlyTooLongMessagesGetNoDigest : Prop :=
  ∀ m : List Byte, (sha256Digest m = none ↔ 2 ^ 64 ≤ 8 * m.length) ∧ (2 ^ 64 ≤ 8 * m.length ↔ 2 ^ 61 ≤ m.length)

/-- R1000, R1001: byte 4i+j of the Digest is `DIGEST_i[31-8j : 24-8j]`, and every Digest has exactly 32 bytes. -/
def Obligations.DigestBytesAreBigEndian : Prop :=
  (∀ H : Vector Word 8, (digestBytes H).length = 32 ∧
    ∀ (i : Fin 8) (j b : Nat), j < 4 → b < 8 →
      ((digestBytes H).getD (4 * i + j) 0).getLsbD b = H[i].getLsbD (24 - 8 * j + b)) ∧
  (∀ (m d : List Byte), sha256Digest m = some d → d.length = 32)

/-- R1003: the HexString has 64 characters for a 32-byte Digest, each of `0123456789abcdef`, high nibble first. -/
def Obligations.HexStringIsLowercaseHighNibbleFirst : Prop :=
  ∀ bytes : List Byte, (hexRender bytes).length = 2 * bytes.length ∧
    (bytes.length = 32 → (hexRender bytes).length = 64) ∧
    (∀ c ∈ hexRender bytes, ('0' ≤ c ∧ c ≤ '9') ∨ ('a' ≤ c ∧ c ≤ 'f')) ∧
    ∀ i < bytes.length,
      (hexRender bytes)[2 * i]? = "0123456789abcdef".toList[(bytes.getD i 0).toNat / 16]? ∧
      (hexRender bytes)[2 * i + 1]? = "0123456789abcdef".toList[(bytes.getD i 0).toNat % 16]?

/-- R1002, R1005, which the spec derives: for every message within the length limit, from every state with phase IDLE
and with no reset during the procedure, the host's procedure reads eight DIGEST words whose big-endian bytes are
Sha256Digest(m). It takes one WAIT read, 83 cycles a block and eight DIGEST reads (R1241). That `kept` holds those eight
words and nothing of the reads of the procedure's WAITs, which are POLLs, is the model's choice (log entry 6), as is that
the actions performed are taken off the host's list (log entry 1). -/
def Obligations.ProcedureComputesTheDigestOfEveryMessage : Prop :=
  ∀ (m : List Byte) (s : State), 8 * m.length < 2 ^ 64 → s.regs.phase = .idle →
    s.hostOps = opsOf (linesDigest (blocksOf m)) →
    s.noReset (1 + 83 * (blocksOf m).length + 8) →
    ∃ (u : State) (D : Vector Word 8), run (1 + 83 * (blocksOf m).length + 8) s = .next u ∧
      u.hostOps = [] ∧ u.kept = s.kept ++ D.toList ∧ sha256Digest m = some (digestBytes D)
end

