-- ==== Sys2Proof/Laws/Bits.lean ====
section
/-! SUPPORT. The fields of a transaction word and of a command word: a word made of fields has these fields, and every
word is made of its own. -/

namespace Sys2Proof

/-- The bits of a transaction word, field by field (R300). -/
theorem TWord.getLsbD_make (we : Bool) (addr : RegAddr) (d : Word) (k : Nat) :
    (TWord.make we addr d).getLsbD k =
      if k < 32 then d.getLsbD k else if k < 38 then addr.getLsbD (k - 32) else (k == 38 && we) := by
  have h : (TWord.make we addr d).getLsbD k =
      if k < 32 then d.getLsbD k else
        if k - 32 < 6 then addr.getLsbD (k - 32) else (BitVec.ofBool we).getLsbD (k - 32 - 6) :=
    BitVec.getLsbD_append.trans (by rw [BitVec.getLsbD_append])
  rw [h]
  split
  · rfl
  · have : (k - 32 < 6) ↔ k < 38 := by omega
    simp only [this]
    split
    · rfl
    · obtain rfl | h38 := eq_or_ne k 38
      · simp
      · have : k - 32 - 6 ≠ 0 := by omega
        simp [h38, BitVec.getLsbD_ofBool, this]

@[simp] theorem TWord.make_we (we : Bool) (addr : RegAddr) (d : Word) : (TWord.make we addr d).we = we := by
  rw [TWord.we, TWord.getLsbD_make]; rfl

@[simp] theorem TWord.make_addr (we : Bool) (addr : RegAddr) (d : Word) : (TWord.make we addr d).addr = addr := by
  ext i hi
  rw [TWord.addr, BitVec.getElem_extractLsb', TWord.getLsbD_make, if_neg (by omega), if_pos (by omega)]
  simp [← BitVec.getLsbD_eq_getElem hi]

@[simp] theorem TWord.make_wdata (we : Bool) (addr : RegAddr) (d : Word) : (TWord.make we addr d).wdata = d := by
  ext i hi
  rw [TWord.wdata, BitVec.getElem_extractLsb', TWord.getLsbD_make, if_pos (by omega)]
  simp [← BitVec.getLsbD_eq_getElem hi]

/-- A transaction word is made of its three fields (R300). -/
theorem TWord.make_fields (T : TWord) : TWord.make T.we T.addr T.wdata = T := by
  apply BitVec.eq_of_getLsbD_eq
  intro i hi
  rw [TWord.getLsbD_make]
  simp only [TWord.we, TWord.addr, TWord.wdata, BitVec.getLsbD_extractLsb']
  split
  · simp [*]
  · split
    · rw [show decide (i - 32 < 6) = true by simp; omega, Bool.true_and, show 32 + (i - 32) = i by omega]
    · obtain rfl : i = 38 := by omega
      rfl

theorem getLsbD_commandWord (op : BitVec 4) (r : BitVec 28) (k : Nat) :
    (commandWord op r).getLsbD k = if k < 4 then op.getLsbD k else r.getLsbD (k - 4) :=
  BitVec.getLsbD_append

@[simp] theorem commandOp_commandWord (op : BitVec 4) (r : BitVec 28) : commandOp (commandWord op r) = op := by
  ext i hi
  rw [commandOp, BitVec.getElem_extractLsb', getLsbD_commandWord, if_pos (by omega)]
  simp [← BitVec.getLsbD_eq_getElem hi]

@[simp] theorem commandReserved_commandWord (op : BitVec 4) (r : BitVec 28) :
    commandReserved (commandWord op r) = r := by
  ext i hi
  rw [commandReserved, BitVec.getElem_extractLsb', getLsbD_commandWord, if_neg (by omega)]
  simp [← BitVec.getLsbD_eq_getElem hi]

/-- A command word is made of its two fields (R301). -/
theorem commandWord_fields (C : Word) : commandWord (commandOp C) (commandReserved C) = C := by
  apply BitVec.eq_of_getLsbD_eq
  intro i hi
  rw [getLsbD_commandWord]
  simp only [commandOp, commandReserved, BitVec.getLsbD_extractLsb']
  split
  · simp [*]
  · rw [show decide (i - 4 < 28) = true by simp; omega, Bool.true_and, show 4 + (i - 4) = i by omega]

/-- A bitwise AND of transaction words is one field by field. -/
theorem TWord.make_and (w1 w2 : Bool) (a1 a2 : RegAddr) (d1 d2 : Word) :
    TWord.make w1 a1 d1 &&& TWord.make w2 a2 d2 = TWord.make (w1 && w2) (a1 &&& a2) (d1 &&& d2) := by
  apply BitVec.eq_of_getLsbD_eq
  intro i hi
  rw [BitVec.getLsbD_and]
  simp only [TWord.getLsbD_make]
  split
  · simp
  · split
    · simp
    · cases i == 38 <;> simp

/-- Two transaction words are equal exactly when their fields are. -/
theorem TWord.make_inj (w1 w2 : Bool) (a1 a2 : RegAddr) (d1 d2 : Word) :
    TWord.make w1 a1 d1 = TWord.make w2 a2 d2 ↔ w1 = w2 ∧ a1 = a2 ∧ d1 = d2 := by
  constructor
  · intro h
    exact ⟨by simpa using congrArg TWord.we h, by simpa using congrArg TWord.addr h,
      by simpa using congrArg TWord.wdata h⟩
  · rintro ⟨rfl, rfl, rfl⟩; rfl

theorem commandWord_and (op op' : BitVec 4) (r r' : BitVec 28) :
    commandWord op r &&& commandWord op' r' = commandWord (op &&& op') (r &&& r') := by
  apply BitVec.eq_of_getLsbD_eq
  intro i hi
  rw [BitVec.getLsbD_and]
  simp only [getLsbD_commandWord]
  split <;> simp

theorem commandWord_inj (op op' : BitVec 4) (r r' : BitVec 28) :
    commandWord op r = commandWord op' r' ↔ op = op' ∧ r = r' := by
  constructor
  · intro h; exact ⟨by simpa using congrArg commandOp h, by simpa using congrArg commandReserved h⟩
  · rintro ⟨rfl, rfl⟩; rfl

/-- A range check, over the numbers. -/
theorem inRange_iff {w : Nat} (lo hi v : BitVec w) :
    inRange lo hi v = true ↔ lo.toNat ≤ v.toNat ∧ v.toNat ≤ hi.toNat := by
  simp [inRange, BitVec.ule]

/-- MSG word i is at index 0x10 + i (R203). -/
theorem msgAddr_eq : ∀ i : BitVec 4, msgAddr i = 0x10 + i.setWidth 6 := by decide

/-- DIGEST word i is at index 0x20 + i (R203). -/
theorem digestAddr_eq : ∀ i : BitVec 3, digestAddr i = 0x20 + i.setWidth 6 := by decide

@[simp] theorem msgIndex_msgAddr (i : BitVec 4) : msgIndex (msgAddr i) = i := by revert i; decide

@[simp] theorem digestIndex_digestAddr (i : BitVec 3) : digestIndex (digestAddr i) = i := by revert i; decide

end Sys2Proof
end

