-- ==== Sys2Proof/Laws/Decode.lean ====
section
/-! SUPPORT. The decoder, row by row (R304, R305): `addr_cases` and `op_cases` split an index and an opcode into the
rows of the table, and one lemma per row says what the decoder reads there, so that no later proof unfolds it. -/

namespace Sys2Proof

/-- The rows of R305 by the index. -/
theorem addr_cases : ∀ a : RegAddr,
    a = 0x00 ∨ a = 0x01 ∨ a = 0x02 ∨ a = 0x03 ∨ inRange 0x04 0x07 a = true ∨ inRange 0x08 0x0F a = true ∨
    (∃ i, a = msgAddr i) ∨ (∃ i, a = digestAddr i) ∨ inRange 0x28 0x2F a = true ∨ inRange 0x30 0x3F a = true := by
  decide

/-- The rows of R304 by the opcode. -/
theorem op_cases : ∀ op : BitVec 4,
    op = 0x0 ∨ op = 0x1 ∨ op = 0x2 ∨ op = 0x3 ∨ inRange 0x4 0x7 op = true ∨ inRange 0x8 0xF op = true := by
  decide

/-! ## Reads -/

theorem decodeRead_id (x : Word) : decodeRead 0x00 x = .rdId x := rfl

theorem decodeRead_version (x : Word) : decodeRead 0x01 x = .rdVersion x := rfl

theorem decodeRead_ctrl (x : Word) : decodeRead 0x02 x = .rdCtrl x := rfl

theorem decodeRead_status (x : Word) : decodeRead 0x03 x = .rdStatus x := rfl

theorem decodeRead_rsvd04 {a : RegAddr} (ha : inRange 0x04 0x07 a = true) (x : Word) :
    decodeRead a x = .rdRsvd04 a x := by
  have key : ∀ a : RegAddr, inRange 0x04 0x07 a = true →
      a ≠ 0x00 ∧ a ≠ 0x01 ∧ a ≠ 0x02 ∧ a ≠ 0x03 ∧ a.ule 0x07 = true := by decide
  have h := key a ha
  rw [decodeRead, if_neg h.1, if_neg h.2.1, if_neg h.2.2.1, if_neg h.2.2.2.1, if_pos h.2.2.2.2]

theorem decodeRead_rsvd08 {a : RegAddr} (ha : inRange 0x08 0x0F a = true) (x : Word) :
    decodeRead a x = .rdRsvd08 a x := by
  have key : ∀ a : RegAddr, inRange 0x08 0x0F a = true →
      a ≠ 0x00 ∧ a ≠ 0x01 ∧ a ≠ 0x02 ∧ a ≠ 0x03 ∧ ¬ a.ule 0x07 = true ∧ a.ule 0x0F = true := by decide
  have h := key a ha
  rw [decodeRead, if_neg h.1, if_neg h.2.1, if_neg h.2.2.1, if_neg h.2.2.2.1, if_neg h.2.2.2.2.1, if_pos h.2.2.2.2.2]

theorem decodeRead_rsvd28 {a : RegAddr} (ha : inRange 0x28 0x2F a = true) (x : Word) :
    decodeRead a x = .rdRsvd28 a x := by
  have key : ∀ a : RegAddr, inRange 0x28 0x2F a = true →
      a ≠ 0x00 ∧ a ≠ 0x01 ∧ a ≠ 0x02 ∧ a ≠ 0x03 ∧ ¬ a.ule 0x07 = true ∧ ¬ a.ule 0x0F = true ∧
        ¬ a.ule 0x1F = true ∧ ¬ a.ule 0x27 = true ∧ a.ule 0x2F = true := by decide
  have h := key a ha
  rw [decodeRead, if_neg h.1, if_neg h.2.1, if_neg h.2.2.1, if_neg h.2.2.2.1, if_neg h.2.2.2.2.1,
    if_neg h.2.2.2.2.2.1, if_neg h.2.2.2.2.2.2.1, if_neg h.2.2.2.2.2.2.2.1, if_pos h.2.2.2.2.2.2.2.2]

theorem decodeRead_rsvd30 {a : RegAddr} (ha : inRange 0x30 0x3F a = true) (x : Word) :
    decodeRead a x = .rdRsvd30 a x := by
  have key : ∀ a : RegAddr, inRange 0x30 0x3F a = true →
      a ≠ 0x00 ∧ a ≠ 0x01 ∧ a ≠ 0x02 ∧ a ≠ 0x03 ∧ ¬ a.ule 0x07 = true ∧ ¬ a.ule 0x0F = true ∧
        ¬ a.ule 0x1F = true ∧ ¬ a.ule 0x27 = true ∧ ¬ a.ule 0x2F = true := by decide
  have h := key a ha
  rw [decodeRead, if_neg h.1, if_neg h.2.1, if_neg h.2.2.1, if_neg h.2.2.2.1, if_neg h.2.2.2.2.1,
    if_neg h.2.2.2.2.2.1, if_neg h.2.2.2.2.2.2.1, if_neg h.2.2.2.2.2.2.2.1, if_neg h.2.2.2.2.2.2.2.2]

theorem decodeRead_msg (i : BitVec 4) (x : Word) : decodeRead (msgAddr i) x = .rdMsg i x := by
  have key : ∀ i : BitVec 4,
      msgAddr i ≠ 0x00 ∧ msgAddr i ≠ 0x01 ∧ msgAddr i ≠ 0x02 ∧ msgAddr i ≠ 0x03 ∧ ¬ (msgAddr i).ule 0x07 = true ∧
        ¬ (msgAddr i).ule 0x0F = true ∧ (msgAddr i).ule 0x1F = true := by decide
  rw [decodeRead, if_neg (key i).1, if_neg (key i).2.1, if_neg (key i).2.2.1, if_neg (key i).2.2.2.1,
    if_neg (key i).2.2.2.2.1, if_neg (key i).2.2.2.2.2.1, if_pos (key i).2.2.2.2.2.2, msgIndex_msgAddr]

theorem decodeRead_digest (i : BitVec 3) (x : Word) : decodeRead (digestAddr i) x = .rdDigest i x := by
  have key : ∀ i : BitVec 3,
      digestAddr i ≠ 0x00 ∧ digestAddr i ≠ 0x01 ∧ digestAddr i ≠ 0x02 ∧ digestAddr i ≠ 0x03 ∧
        ¬ (digestAddr i).ule 0x07 = true ∧ ¬ (digestAddr i).ule 0x0F = true ∧ ¬ (digestAddr i).ule 0x1F = true ∧
        (digestAddr i).ule 0x27 = true := by decide
  rw [decodeRead, if_neg (key i).1, if_neg (key i).2.1, if_neg (key i).2.2.1, if_neg (key i).2.2.2.1,
    if_neg (key i).2.2.2.2.1, if_neg (key i).2.2.2.2.2.1, if_neg (key i).2.2.2.2.2.2.1,
    if_pos (key i).2.2.2.2.2.2.2, digestIndex_digestAddr]

/-! ## Writes -/

theorem decodeWrite_id (x : Word) : decodeWrite 0x00 x = .wrId x := rfl

theorem decodeWrite_version (x : Word) : decodeWrite 0x01 x = .wrVersion x := rfl

theorem decodeWrite_ctrl (x : Word) : decodeWrite 0x02 x = decodeCommand x := rfl

theorem decodeWrite_status (x : Word) : decodeWrite 0x03 x = .wrStatus x := rfl

theorem decodeWrite_rsvd04 {a : RegAddr} (ha : inRange 0x04 0x07 a = true) (x : Word) :
    decodeWrite a x = .wrRsvd04 a x := by
  have key : ∀ a : RegAddr, inRange 0x04 0x07 a = true →
      a ≠ 0x00 ∧ a ≠ 0x01 ∧ a ≠ 0x02 ∧ a ≠ 0x03 ∧ a.ule 0x07 = true := by decide
  have h := key a ha
  rw [decodeWrite, if_neg h.1, if_neg h.2.1, if_neg h.2.2.1, if_neg h.2.2.2.1, if_pos h.2.2.2.2]

theorem decodeWrite_rsvd08 {a : RegAddr} (ha : inRange 0x08 0x0F a = true) (x : Word) :
    decodeWrite a x = .wrRsvd08 a x := by
  have key : ∀ a : RegAddr, inRange 0x08 0x0F a = true →
      a ≠ 0x00 ∧ a ≠ 0x01 ∧ a ≠ 0x02 ∧ a ≠ 0x03 ∧ ¬ a.ule 0x07 = true ∧ a.ule 0x0F = true := by decide
  have h := key a ha
  rw [decodeWrite, if_neg h.1, if_neg h.2.1, if_neg h.2.2.1, if_neg h.2.2.2.1, if_neg h.2.2.2.2.1, if_pos h.2.2.2.2.2]

theorem decodeWrite_rsvd28 {a : RegAddr} (ha : inRange 0x28 0x2F a = true) (x : Word) :
    decodeWrite a x = .wrRsvd28 a x := by
  have key : ∀ a : RegAddr, inRange 0x28 0x2F a = true →
      a ≠ 0x00 ∧ a ≠ 0x01 ∧ a ≠ 0x02 ∧ a ≠ 0x03 ∧ ¬ a.ule 0x07 = true ∧ ¬ a.ule 0x0F = true ∧
        ¬ a.ule 0x1F = true ∧ ¬ a.ule 0x27 = true ∧ a.ule 0x2F = true := by decide
  have h := key a ha
  rw [decodeWrite, if_neg h.1, if_neg h.2.1, if_neg h.2.2.1, if_neg h.2.2.2.1, if_neg h.2.2.2.2.1,
    if_neg h.2.2.2.2.2.1, if_neg h.2.2.2.2.2.2.1, if_neg h.2.2.2.2.2.2.2.1, if_pos h.2.2.2.2.2.2.2.2]

theorem decodeWrite_rsvd30 {a : RegAddr} (ha : inRange 0x30 0x3F a = true) (x : Word) :
    decodeWrite a x = .wrRsvd30 a x := by
  have key : ∀ a : RegAddr, inRange 0x30 0x3F a = true →
      a ≠ 0x00 ∧ a ≠ 0x01 ∧ a ≠ 0x02 ∧ a ≠ 0x03 ∧ ¬ a.ule 0x07 = true ∧ ¬ a.ule 0x0F = true ∧
        ¬ a.ule 0x1F = true ∧ ¬ a.ule 0x27 = true ∧ ¬ a.ule 0x2F = true := by decide
  have h := key a ha
  rw [decodeWrite, if_neg h.1, if_neg h.2.1, if_neg h.2.2.1, if_neg h.2.2.2.1, if_neg h.2.2.2.2.1,
    if_neg h.2.2.2.2.2.1, if_neg h.2.2.2.2.2.2.1, if_neg h.2.2.2.2.2.2.2.1, if_neg h.2.2.2.2.2.2.2.2]

theorem decodeWrite_msg (i : BitVec 4) (x : Word) : decodeWrite (msgAddr i) x = .wrMsg i x := by
  have key : ∀ i : BitVec 4,
      msgAddr i ≠ 0x00 ∧ msgAddr i ≠ 0x01 ∧ msgAddr i ≠ 0x02 ∧ msgAddr i ≠ 0x03 ∧ ¬ (msgAddr i).ule 0x07 = true ∧
        ¬ (msgAddr i).ule 0x0F = true ∧ (msgAddr i).ule 0x1F = true := by decide
  rw [decodeWrite, if_neg (key i).1, if_neg (key i).2.1, if_neg (key i).2.2.1, if_neg (key i).2.2.2.1,
    if_neg (key i).2.2.2.2.1, if_neg (key i).2.2.2.2.2.1, if_pos (key i).2.2.2.2.2.2, msgIndex_msgAddr]

theorem decodeWrite_digest (i : BitVec 3) (x : Word) : decodeWrite (digestAddr i) x = .wrDigest i x := by
  have key : ∀ i : BitVec 3,
      digestAddr i ≠ 0x00 ∧ digestAddr i ≠ 0x01 ∧ digestAddr i ≠ 0x02 ∧ digestAddr i ≠ 0x03 ∧
        ¬ (digestAddr i).ule 0x07 = true ∧ ¬ (digestAddr i).ule 0x0F = true ∧ ¬ (digestAddr i).ule 0x1F = true ∧
        (digestAddr i).ule 0x27 = true := by decide
  rw [decodeWrite, if_neg (key i).1, if_neg (key i).2.1, if_neg (key i).2.2.1, if_neg (key i).2.2.2.1,
    if_neg (key i).2.2.2.2.1, if_neg (key i).2.2.2.2.2.1, if_neg (key i).2.2.2.2.2.2.1,
    if_pos (key i).2.2.2.2.2.2.2, digestIndex_digestAddr]

/-! ## Commands -/

theorem decodeCommand_nop (r : BitVec 28) : decodeCommand (commandWord 0x0 r) = .cmdNop r := by
  simp [decodeCommand]

theorem decodeCommand_init (r : BitVec 28) : decodeCommand (commandWord 0x1 r) = .cmdInit r := by
  simp [decodeCommand]

theorem decodeCommand_next (r : BitVec 28) : decodeCommand (commandWord 0x2 r) = .cmdNext r := by
  simp [decodeCommand]

theorem decodeCommand_first (r : BitVec 28) : decodeCommand (commandWord 0x3 r) = .cmdFirst r := by
  simp [decodeCommand]

theorem decodeCommand_rsvd4 {op : BitVec 4} (h : inRange 0x4 0x7 op = true) (r : BitVec 28) :
    decodeCommand (commandWord op r) = .cmdRsvd4 op r := by
  have key : ∀ op : BitVec 4, inRange 0x4 0x7 op = true →
      op ≠ 0x0 ∧ op ≠ 0x1 ∧ op ≠ 0x2 ∧ op ≠ 0x3 ∧ op.ule 0x7 = true := by decide
  have h := key op h
  simp only [decodeCommand, commandOp_commandWord, commandReserved_commandWord]
  rw [if_neg h.1, if_neg h.2.1, if_neg h.2.2.1, if_neg h.2.2.2.1, if_pos h.2.2.2.2]

theorem decodeCommand_rsvd8 {op : BitVec 4} (h : inRange 0x8 0xF op = true) (r : BitVec 28) :
    decodeCommand (commandWord op r) = .cmdRsvd8 op r := by
  have key : ∀ op : BitVec 4, inRange 0x8 0xF op = true →
      op ≠ 0x0 ∧ op ≠ 0x1 ∧ op ≠ 0x2 ∧ op ≠ 0x3 ∧ ¬ op.ule 0x7 = true := by decide
  have h := key op h
  simp only [decodeCommand, commandOp_commandWord, commandReserved_commandWord]
  rw [if_neg h.1, if_neg h.2.1, if_neg h.2.2.1, if_neg h.2.2.2.1, if_neg h.2.2.2.2]

/-! ## Transaction words -/

theorem decode_read (a : RegAddr) (x : Word) : decode (TWord.make false a x) = decodeRead a x := by
  simp [decode]

theorem decode_write (a : RegAddr) (x : Word) : decode (TWord.make true a x) = decodeWrite a x := by
  simp [decode]

theorem decode_of_read {T : TWord} (h : T.we = false) : decode T = decodeRead T.addr T.wdata := by simp [decode, h]

theorem decode_of_write {T : TWord} (h : T.we = true) : decode T = decodeWrite T.addr T.wdata := by simp [decode, h]

end Sys2Proof
end

