-- ==== Sys2Proof/Laws/State.lean ====
section
/-! SUPPORT. One lemma per field per update of the registers and of the state, each true by `rfl` and tagged
`@[simp]`, so that no later proof unfolds a record update. -/

namespace Sys2Proof.Machine

/-! ## `ERR <- 1` and `ERR <- 0` -/

@[simp] theorem Regs.setErr_hash (S : Regs) : (S.setErr).hash = S.hash := rfl
@[simp] theorem Regs.setErr_work (S : Regs) : (S.setErr).work = S.work := rfl
@[simp] theorem Regs.setErr_msg (S : Regs) : (S.setErr).msg = S.msg := rfl
@[simp] theorem Regs.setErr_win (S : Regs) : (S.setErr).win = S.win := rfl
@[simp] theorem Regs.setErr_t (S : Regs) : (S.setErr).t = S.t := rfl
@[simp] theorem Regs.setErr_phase (S : Regs) : (S.setErr).phase = S.phase := rfl
@[simp] theorem Regs.setErr_valid (S : Regs) : (S.setErr).valid = S.valid := rfl
@[simp] theorem Regs.setErr_err (S : Regs) : (S.setErr).err = true := rfl

/-! ## ERR clear -/

@[simp] theorem Regs.clearErr_hash (S : Regs) : (S.clearErr).hash = S.hash := rfl
@[simp] theorem Regs.clearErr_work (S : Regs) : (S.clearErr).work = S.work := rfl
@[simp] theorem Regs.clearErr_msg (S : Regs) : (S.clearErr).msg = S.msg := rfl
@[simp] theorem Regs.clearErr_win (S : Regs) : (S.clearErr).win = S.win := rfl
@[simp] theorem Regs.clearErr_t (S : Regs) : (S.clearErr).t = S.t := rfl
@[simp] theorem Regs.clearErr_phase (S : Regs) : (S.clearErr).phase = S.phase := rfl
@[simp] theorem Regs.clearErr_valid (S : Regs) : (S.clearErr).valid = S.valid := rfl
@[simp] theorem Regs.clearErr_err (S : Regs) : (S.clearErr).err = false := rfl

/-! ## `MSG[i] <- v` -/

@[simp] theorem Regs.setMsgWord_hash (S : Regs) (i : BitVec 4) (v : Word) : (S.setMsgWord i v).hash = S.hash := rfl
@[simp] theorem Regs.setMsgWord_work (S : Regs) (i : BitVec 4) (v : Word) : (S.setMsgWord i v).work = S.work := rfl
@[simp] theorem Regs.setMsgWord_msg (S : Regs) (i : BitVec 4) (v : Word) : (S.setMsgWord i v).msg = S.msg.set i.toNat v := rfl
@[simp] theorem Regs.setMsgWord_win (S : Regs) (i : BitVec 4) (v : Word) : (S.setMsgWord i v).win = S.win := rfl
@[simp] theorem Regs.setMsgWord_t (S : Regs) (i : BitVec 4) (v : Word) : (S.setMsgWord i v).t = S.t := rfl
@[simp] theorem Regs.setMsgWord_phase (S : Regs) (i : BitVec 4) (v : Word) : (S.setMsgWord i v).phase = S.phase := rfl
@[simp] theorem Regs.setMsgWord_valid (S : Regs) (i : BitVec 4) (v : Word) : (S.setMsgWord i v).valid = S.valid := rfl
@[simp] theorem Regs.setMsgWord_err (S : Regs) (i : BitVec 4) (v : Word) : (S.setMsgWord i v).err = S.err := rfl

/-! ## INIT -/

@[simp] theorem loadIv_hash (S : Regs) : (loadIv S).hash = iv := rfl
@[simp] theorem loadIv_work (S : Regs) : (loadIv S).work = S.work := rfl
@[simp] theorem loadIv_msg (S : Regs) : (loadIv S).msg = S.msg := rfl
@[simp] theorem loadIv_win (S : Regs) : (loadIv S).win = S.win := rfl
@[simp] theorem loadIv_t (S : Regs) : (loadIv S).t = S.t := rfl
@[simp] theorem loadIv_phase (S : Regs) : (loadIv S).phase = S.phase := rfl
@[simp] theorem loadIv_valid (S : Regs) : (loadIv S).valid = false := rfl
@[simp] theorem loadIv_err (S : Regs) : (loadIv S).err = S.err := rfl

/-! ## The start of a compression -/

@[simp] theorem startCompression_hash (H : Vector Word 8) (S : Regs) : (startCompression H S).hash = S.hash := rfl
@[simp] theorem startCompression_work (H : Vector Word 8) (S : Regs) : (startCompression H S).work = Work.load H := rfl
@[simp] theorem startCompression_msg (H : Vector Word 8) (S : Regs) : (startCompression H S).msg = S.msg := rfl
@[simp] theorem startCompression_win (H : Vector Word 8) (S : Regs) : (startCompression H S).win = S.msg := rfl
@[simp] theorem startCompression_t (H : Vector Word 8) (S : Regs) : (startCompression H S).t = 0 := rfl
@[simp] theorem startCompression_phase (H : Vector Word 8) (S : Regs) : (startCompression H S).phase = .round := rfl
@[simp] theorem startCompression_valid (H : Vector Word 8) (S : Regs) : (startCompression H S).valid = false := rfl
@[simp] theorem startCompression_err (H : Vector Word 8) (S : Regs) : (startCompression H S).err = S.err := rfl

/-! ## A ROUND cycle -/

@[simp] theorem roundCycle_hash (S : Regs) : (roundCycle S).hash = S.hash := rfl
@[simp] theorem roundCycle_work (S : Regs) : (roundCycle S).work = roundStep (kAt S.t.toNat) S.win[0] S.work := rfl
@[simp] theorem roundCycle_msg (S : Regs) : (roundCycle S).msg = S.msg := rfl
@[simp] theorem roundCycle_win (S : Regs) : (roundCycle S).win = shiftWindow S.win := rfl
@[simp] theorem roundCycle_t (S : Regs) : (roundCycle S).t = (if S.t = 63 then 0 else S.t + 1) := rfl
@[simp] theorem roundCycle_phase (S : Regs) : (roundCycle S).phase = (if S.t = 63 then .final else .round) := rfl
@[simp] theorem roundCycle_valid (S : Regs) : (roundCycle S).valid = S.valid := rfl
@[simp] theorem roundCycle_err (S : Regs) : (roundCycle S).err = S.err := rfl

/-! ## A FINAL cycle -/

@[simp] theorem finalCycle_hash (S : Regs) : (finalCycle S).hash = addWork S.hash S.work := rfl
@[simp] theorem finalCycle_work (S : Regs) : (finalCycle S).work = S.work := rfl
@[simp] theorem finalCycle_msg (S : Regs) : (finalCycle S).msg = S.msg := rfl
@[simp] theorem finalCycle_win (S : Regs) : (finalCycle S).win = S.win := rfl
@[simp] theorem finalCycle_t (S : Regs) : (finalCycle S).t = S.t := rfl
@[simp] theorem finalCycle_phase (S : Regs) : (finalCycle S).phase = .idle := rfl
@[simp] theorem finalCycle_valid (S : Regs) : (finalCycle S).valid = true := rfl
@[simp] theorem finalCycle_err (S : Regs) : (finalCycle S).err = S.err := rfl

/-! ## A cycle with `rst = 0` -/

@[simp] theorem State.clock_regs (s : State) (v : Word) (w : HostWrite) : (s.clock v w).regs = w s.regs (datapath s.regs) := rfl
@[simp] theorem State.clock_out (s : State) (v : Word) (w : HostWrite) : (s.clock v w).out = s.regs.outputs v := rfl
@[simp] theorem State.clock_hostOps (s : State) (v : Word) (w : HostWrite) : (s.clock v w).hostOps = s.hostOps := rfl
@[simp] theorem State.clock_rstIn (s : State) (v : Word) (w : HostWrite) : (s.clock v w).rstIn = s.rstIn := rfl
@[simp] theorem State.clock_kept (s : State) (v : Word) (w : HostWrite) : (s.clock v w).kept = s.kept := rfl
@[simp] theorem State.clock_resetDraws (s : State) (v : Word) (w : HostWrite) : (s.clock v w).resetDraws = s.resetDraws := rfl

/-! ## A cycle with `rst = 1` -/

@[simp] theorem resetCycle_regs (s : State) : (resetCycle s).regs = Regs.reset := rfl
@[simp] theorem resetCycle_out (s : State) : (resetCycle s).out = s.regs.outputs (Config.resetRdata s.resetDraws) := rfl
@[simp] theorem resetCycle_hostOps (s : State) : (resetCycle s).hostOps = s.hostOps := rfl
@[simp] theorem resetCycle_rstIn (s : State) : (resetCycle s).rstIn = s.rstIn := rfl
@[simp] theorem resetCycle_kept (s : State) : (resetCycle s).kept = s.kept := rfl
@[simp] theorem resetCycle_resetDraws (s : State) : (resetCycle s).resetDraws = s.resetDraws + 1 := rfl

/-! ## An idle cycle -/

@[simp] theorem idleCycle_regs (s : State) : (idleCycle s).regs = datapath s.regs := rfl
@[simp] theorem idleCycle_out (s : State) : (idleCycle s).out = s.regs.outputs 0 := rfl
@[simp] theorem idleCycle_hostOps (s : State) : (idleCycle s).hostOps = s.hostOps := rfl
@[simp] theorem idleCycle_rstIn (s : State) : (idleCycle s).rstIn = s.rstIn := rfl
@[simp] theorem idleCycle_kept (s : State) : (idleCycle s).kept = s.kept := rfl
@[simp] theorem idleCycle_resetDraws (s : State) : (idleCycle s).resetDraws = s.resetDraws := rfl

/-! ## The host's kept read data -/

@[simp] theorem State.keep_regs (s : State) (v : Word) : (s.keep v).regs = s.regs := rfl
@[simp] theorem State.keep_out (s : State) (v : Word) : (s.keep v).out = s.out := rfl
@[simp] theorem State.keep_hostOps (s : State) (v : Word) : (s.keep v).hostOps = s.hostOps := rfl
@[simp] theorem State.keep_rstIn (s : State) (v : Word) : (s.keep v).rstIn = s.rstIn := rfl
@[simp] theorem State.keep_kept (s : State) (v : Word) : (s.keep v).kept = s.kept ++ [v] := rfl
@[simp] theorem State.keep_resetDraws (s : State) (v : Word) : (s.keep v).resetDraws = s.resetDraws := rfl

/-! ## The host's coming actions -/

@[simp] theorem State.withOps_regs (s : State) (ops : List HostOp) : (s.withOps ops).regs = s.regs := rfl
@[simp] theorem State.withOps_out (s : State) (ops : List HostOp) : (s.withOps ops).out = s.out := rfl
@[simp] theorem State.withOps_hostOps (s : State) (ops : List HostOp) : (s.withOps ops).hostOps = ops := rfl
@[simp] theorem State.withOps_rstIn (s : State) (ops : List HostOp) : (s.withOps ops).rstIn = s.rstIn := rfl
@[simp] theorem State.withOps_kept (s : State) (ops : List HostOp) : (s.withOps ops).kept = s.kept := rfl
@[simp] theorem State.withOps_resetDraws (s : State) (ops : List HostOp) : (s.withOps ops).resetDraws = s.resetDraws := rfl

/-! ## The input `rst` -/

@[simp] theorem State.dropRst_regs (s : State) : (s.dropRst).regs = s.regs := rfl
@[simp] theorem State.dropRst_out (s : State) : (s.dropRst).out = s.out := rfl
@[simp] theorem State.dropRst_hostOps (s : State) : (s.dropRst).hostOps = s.hostOps := rfl
@[simp] theorem State.dropRst_rstIn (s : State) : (s.dropRst).rstIn = s.rstIn.tail := rfl
@[simp] theorem State.dropRst_kept (s : State) : (s.dropRst).kept = s.kept := rfl
@[simp] theorem State.dropRst_resetDraws (s : State) : (s.dropRst).resetDraws = s.resetDraws := rfl

/-! ## An action presented first -/

@[simp] theorem State.presentFirst_regs (s : State) (op : HostOp) : (s.presentFirst op).regs = s.regs := rfl
@[simp] theorem State.presentFirst_out (s : State) (op : HostOp) : (s.presentFirst op).out = s.out := rfl
@[simp] theorem State.presentFirst_hostOps (s : State) (op : HostOp) : (s.presentFirst op).hostOps = op :: s.hostOps := rfl
@[simp] theorem State.presentFirst_rstIn (s : State) (op : HostOp) : (s.presentFirst op).rstIn = false :: s.rstIn := rfl
@[simp] theorem State.presentFirst_kept (s : State) (op : HostOp) : (s.presentFirst op).kept = s.kept := rfl
@[simp] theorem State.presentFirst_resetDraws (s : State) (op : HostOp) : (s.presentFirst op).resetDraws = s.resetDraws := rfl

/-! ## Reset and the outputs -/

@[simp] theorem State.reset_regs : State.reset.regs = Regs.reset := rfl
@[simp] theorem State.reset_hostOps : State.reset.hostOps = [] := rfl
@[simp] theorem State.reset_rstIn : State.reset.rstIn = [] := rfl
@[simp] theorem Regs.reset_phase : Regs.reset.phase = .idle := rfl
@[simp] theorem Regs.reset_valid : Regs.reset.valid = false := rfl
@[simp] theorem Regs.reset_err : Regs.reset.err = false := rfl
@[simp] theorem Regs.reset_t : Regs.reset.t = 0 := rfl
@[simp] theorem Regs.outputs_rdata (S : Regs) (v : Word) : (S.outputs v).rdata = v := rfl
@[simp] theorem Regs.outputs_busy (S : Regs) (v : Word) : (S.outputs v).busy = S.busy := rfl
@[simp] theorem Regs.outputs_valid (S : Regs) (v : Word) : (S.outputs v).valid = S.valid := rfl
@[simp] theorem writeNothing_apply (S S1 : Regs) : writeNothing S S1 = S1 := rfl

end Sys2Proof.Machine
end

