-- ==== Sys2Proof/Laws/Ops.lean ====
section
/-! SUPPORT. One lemma for each shared operation: what the datapath does in each phase, what the busy test does, and
what an instruction can do at all (`exec_eq_clock`), so that no later proof unfolds a meaning. -/

namespace Sys2Proof.Machine

/-! ## The datapath (R710, R712, R713) -/

theorem datapath_of_idle {S : Regs} (h : S.phase = .idle) : datapath S = S := by simp [datapath, h]

theorem datapath_of_round {S : Regs} (h : S.phase = .round) : datapath S = roundCycle S := by simp [datapath, h]

theorem datapath_of_final {S : Regs} (h : S.phase = .final) : datapath S = finalCycle S := by simp [datapath, h]

/-- The datapath never writes MSG (R103, R721). -/
@[simp] theorem datapath_msg (S : Regs) : (datapath S).msg = S.msg := by
  unfold datapath; split <;> rfl

/-- The datapath never writes ERR (R108, R721). -/
@[simp] theorem datapath_err (S : Regs) : (datapath S).err = S.err := by
  unfold datapath; split <;> rfl

/-! ## The busy test (R805, R808) -/

theorem testBusy_of_idle {S : Regs} (f : Regs → Regs) (S1 : Regs) (h : S.phase = .idle) : testBusy f S S1 = f S1 := by
  simp [testBusy, h]

theorem testBusy_of_busy {S : Regs} (f : Regs → Regs) (S1 : Regs) (h : S.phase ≠ .idle) :
    testBusy f S S1 = S1.setErr := by
  simp [testBusy, h]

theorem busy_eq_false_iff (S : Regs) : S.busy = false ↔ S.phase = .idle := by
  cases h : S.phase <;> simp [Regs.busy, h]

theorem busy_eq_true_iff (S : Regs) : S.busy = true ↔ S.phase ≠ .idle := by
  cases h : S.phase <;> simp [Regs.busy, h]

/-! ## What an instruction can do -/

/-- The read data of an instruction (R900 to R906; 0 for a write, R908). -/
def instrReadData (S : Regs) : Instr → Word
  | .rdId _ => idWord
  | .rdVersion _ => versionWord
  | .rdStatus _ => S.statusWord
  | .rdMsg i _ => S.msgWord i
  | .rdDigest i _ => S.digestWord i
  | _ => 0

/-- The host's write of an instruction (R800 to R804, R909 to R914; none for a read). -/
def instrHostWrite : Instr → HostWrite
  | .cmdInit _ => testBusy loadIv
  | .cmdNext _ => testBusy fun S => startCompression S.hash S
  | .cmdFirst _ => testBusy fun S => startCompression iv (loadIv S)
  | .cmdRsvd4 _ _ => fun _ S1 => S1.setErr
  | .cmdRsvd8 _ _ => fun _ S1 => S1.setErr
  | .wrStatus d => fun _ S1 => if clrErrBit d then S1.clearErr else S1
  | .wrMsg i d => fun _ S1 => S1.setMsgWord i d
  | _ => writeNothing

/-- Every instruction is one clock cycle with its read data and its host write: it always answers a next state. -/
theorem exec_eq_clock (i : Instr) (s : State) :
    exec i s = .next (s.clock (instrReadData s.regs i) (instrHostWrite i)) := by
  cases i <;> rfl

/-- While the block is busy a host write changes at most MSG and ERR (R721). -/
theorem instrHostWrite_of_busy (i : Instr) {S : Regs} (S1 : Regs) (h : S.phase ≠ .idle) :
    instrHostWrite i S S1 =
      { S1 with msg := (instrHostWrite i S S1).msg, err := (instrHostWrite i S S1).err } := by
  cases i <;> simp only [instrHostWrite] <;> (try rw [testBusy_of_busy _ _ h]) <;> (try rfl)
  split <;> rfl

/-- The datapath does not read ERR (R1103). -/
theorem datapath_with_err (S : Regs) (e : Bool) : datapath { S with err := e } = { datapath S with err := e } := by
  rcases S with ⟨_, _, _, _, _, _ | _ | _, _, _⟩ <;> rfl

/-- The datapath does not read MSG (R600, R710, R712). -/
theorem datapath_with_msg (S : Regs) (M : Vector Word 16) :
    datapath { S with msg := M } = { datapath S with msg := M } := by
  rcases S with ⟨_, _, _, _, _, _ | _ | _, _, _⟩ <;> rfl

end Sys2Proof.Machine
end

