-- ==== Sys2Proof/Laws/PerInstr.lean ====
section
/-! SUPPORT. The family `RowMatch`: the encoding of a well-formed instruction has the fixed bits of its row of
spec/opcode_table.json, one lemma per constructor. -/

namespace Sys2Proof.Laws

/-- An access under a row's mask keeps `we` and the masked index, and no data (R300). -/
theorem access_and (we : Bool) (a am : RegAddr) (x : Word) :
    TWord.make we a x &&& TWord.make true am 0 = TWord.make we (a &&& am) 0 := by
  rw [TWord.make_and]; simp

/-- A command under a row's mask keeps its index and the masked opcode (R301). -/
theorem command_and (op om : BitVec 4) (r : BitVec 28) :
    encodeCommand op r &&& TWord.make true 0x3F (commandWord om 0) = TWord.make true 0x02 (commandWord (op &&& om) 0) := by
  rw [encodeCommand, encodeWrite, TWord.make_and, commandWord_and]; simp

/-- An access row covers the accesses whose masked index is the row's. -/
theorem covers_access {row : Row} {we : Bool} {a am av : RegAddr} (x : Word)
    (hm : row.matchMask = (TWord.make we av 0, TWord.make true am 0)) (h : a &&& am = av) :
    row.covers (TWord.make we a x) = true := by
  rw [Row.covers, hm, access_and, h, beq_iff_eq]

/-- A command row covers the commands whose masked opcode is the row's. -/
theorem covers_command {row : Row} {op om ov : BitVec 4} (r : BitVec 28)
    (hm : row.matchMask = (TWord.make true 0x02 (commandWord ov 0), TWord.make true 0x3F (commandWord om 0)))
    (h : op &&& om = ov) : row.covers (encodeCommand op r) = true := by
  rw [Row.covers, hm, command_and, h, beq_iff_eq]

namespace RowMatch

/-- The encoding has the fixed bits of the instruction's row. -/
def Statement (i : Instr) : Prop := i.wf = true → i.row.covers (encode i) = true

theorem cmdNop (r : BitVec 28) : Statement (.cmdNop r) := fun _ =>
  covers_command (om := 0xf) (ov := 0x0) r rfl (by decide)

theorem cmdInit (r : BitVec 28) : Statement (.cmdInit r) := fun _ =>
  covers_command (om := 0xf) (ov := 0x1) r rfl (by decide)

theorem cmdNext (r : BitVec 28) : Statement (.cmdNext r) := fun _ =>
  covers_command (om := 0xf) (ov := 0x2) r rfl (by decide)

theorem cmdFirst (r : BitVec 28) : Statement (.cmdFirst r) := fun _ =>
  covers_command (om := 0xf) (ov := 0x3) r rfl (by decide)

theorem cmdRsvd4 (op : BitVec 4) (r : BitVec 28) : Statement (.cmdRsvd4 op r) := fun h =>
  have key : ∀ o : BitVec 4, inRange 0x4 0x7 o = true → o &&& 0xc = 0x4 := by decide
  covers_command r rfl (key op h)

theorem cmdRsvd8 (op : BitVec 4) (r : BitVec 28) : Statement (.cmdRsvd8 op r) := fun h =>
  have key : ∀ o : BitVec 4, inRange 0x8 0xf o = true → o &&& 0x8 = 0x8 := by decide
  covers_command r rfl (key op h)

theorem rdId (x : Word) : Statement (.rdId x) := fun _ => covers_access (am := 0x3f) (av := 0x00) x rfl (by decide)

theorem rdVersion (x : Word) : Statement (.rdVersion x) := fun _ =>
  covers_access (am := 0x3f) (av := 0x01) x rfl (by decide)

theorem rdCtrl (x : Word) : Statement (.rdCtrl x) := fun _ =>
  covers_access (am := 0x3f) (av := 0x02) x rfl (by decide)

theorem rdStatus (x : Word) : Statement (.rdStatus x) := fun _ =>
  covers_access (am := 0x3f) (av := 0x03) x rfl (by decide)

theorem rdMsg (i : BitVec 4) (x : Word) : Statement (.rdMsg i x) := fun _ =>
  have key : ∀ i, msgAddr i &&& 0x30 = 0x10 := by decide
  covers_access x rfl (key i)

theorem rdDigest (i : BitVec 3) (x : Word) : Statement (.rdDigest i x) := fun _ =>
  have key : ∀ i, digestAddr i &&& 0x38 = 0x20 := by decide
  covers_access x rfl (key i)

theorem rdRsvd04 (addr : RegAddr) (x : Word) : Statement (.rdRsvd04 addr x) := fun h =>
  have key : ∀ a : RegAddr, inRange 0x04 0x07 a = true → a &&& 0x3c = 0x04 := by decide
  covers_access x rfl (key addr h)

theorem rdRsvd08 (addr : RegAddr) (x : Word) : Statement (.rdRsvd08 addr x) := fun h =>
  have key : ∀ a : RegAddr, inRange 0x08 0x0f a = true → a &&& 0x38 = 0x08 := by decide
  covers_access x rfl (key addr h)

theorem rdRsvd28 (addr : RegAddr) (x : Word) : Statement (.rdRsvd28 addr x) := fun h =>
  have key : ∀ a : RegAddr, inRange 0x28 0x2f a = true → a &&& 0x38 = 0x28 := by decide
  covers_access x rfl (key addr h)

theorem rdRsvd30 (addr : RegAddr) (x : Word) : Statement (.rdRsvd30 addr x) := fun h =>
  have key : ∀ a : RegAddr, inRange 0x30 0x3f a = true → a &&& 0x30 = 0x30 := by decide
  covers_access x rfl (key addr h)

theorem wrId (d : Word) : Statement (.wrId d) := fun _ => covers_access (am := 0x3f) (av := 0x00) d rfl (by decide)

theorem wrVersion (d : Word) : Statement (.wrVersion d) := fun _ =>
  covers_access (am := 0x3f) (av := 0x01) d rfl (by decide)

theorem wrStatus (d : Word) : Statement (.wrStatus d) := fun _ =>
  covers_access (am := 0x3f) (av := 0x03) d rfl (by decide)

theorem wrMsg (i : BitVec 4) (d : Word) : Statement (.wrMsg i d) := fun _ =>
  have key : ∀ i, msgAddr i &&& 0x30 = 0x10 := by decide
  covers_access d rfl (key i)

theorem wrDigest (i : BitVec 3) (d : Word) : Statement (.wrDigest i d) := fun _ =>
  have key : ∀ i, digestAddr i &&& 0x38 = 0x20 := by decide
  covers_access d rfl (key i)

theorem wrRsvd04 (addr : RegAddr) (d : Word) : Statement (.wrRsvd04 addr d) := fun h =>
  have key : ∀ a : RegAddr, inRange 0x04 0x07 a = true → a &&& 0x3c = 0x04 := by decide
  covers_access d rfl (key addr h)

theorem wrRsvd08 (addr : RegAddr) (d : Word) : Statement (.wrRsvd08 addr d) := fun h =>
  have key : ∀ a : RegAddr, inRange 0x08 0x0f a = true → a &&& 0x38 = 0x08 := by decide
  covers_access d rfl (key addr h)

theorem wrRsvd28 (addr : RegAddr) (d : Word) : Statement (.wrRsvd28 addr d) := fun h =>
  have key : ∀ a : RegAddr, inRange 0x28 0x2f a = true → a &&& 0x38 = 0x28 := by decide
  covers_access d rfl (key addr h)

theorem wrRsvd30 (addr : RegAddr) (d : Word) : Statement (.wrRsvd30 addr d) := fun h =>
  have key : ∀ a : RegAddr, inRange 0x30 0x3f a = true → a &&& 0x30 = 0x30 := by decide
  covers_access d rfl (key addr h)

end RowMatch

end Sys2Proof.Laws
end

