-- ==== Sys2Proof/Laws/Scheduler.lean ====
section
/-! SUPPORT. The list form of the schedule: its length, that it only grows at its end, and that any list long enough
gives `W[t]`. -/

namespace Sys2Proof.Machine

theorem scheduleWords_length (M : Vector Word 16) (n : Nat) : (scheduleWords M n).length = 16 + n := by
  induction n with
  | zero => simp [scheduleWords]
  | succ n ih => simp [scheduleWords, ih]; omega

/-- A word once in the list stays. -/
theorem scheduleWords_getD_add (M : Vector Word 16) (n k t : Nat) (h : t < 16 + n) :
    (scheduleWords M (n + k)).getD t 0 = (scheduleWords M n).getD t 0 := by
  induction k with
  | zero => rfl
  | succ k ih =>
    rw [← ih, ← Nat.add_assoc, scheduleWords, List.getD_append]
    rw [scheduleWords_length]; omega

/-- Every list long enough gives `W[t]`. -/
theorem schedule_eq_getD (M : Vector Word 16) (n t : Nat) (h : t < 16 + n) :
    schedule M t = (scheduleWords M n).getD t 0 := by
  unfold schedule
  rcases Nat.le_total (t - 15) n with hle | hle
  · obtain ⟨k, rfl⟩ := Nat.exists_eq_add_of_le hle
    exact (scheduleWords_getD_add M _ k t (by omega)).symm
  · obtain ⟨k, hk⟩ := Nat.exists_eq_add_of_le hle
    rw [hk]
    exact scheduleWords_getD_add M n k t h

end Sys2Proof.Machine
end

