-- ==== Sys2Proof/Laws/Step.lean ====
section
/-! SUPPORT. What a cycle and a step can do: `busCycle_eq` and `hostCycle_eq` compute them, `step_regs` is the one
inversion lemma of the step over the registers, and the lemmas of `run` take runs apart. -/

namespace Sys2Proof.Machine

/-! ## What the host's action leaves alone -/

@[simp] theorem after_regs (op : HostOp) (rest : List HostOp) (s : State) : (op.after rest s).regs = s.regs := by
  cases op <;> simp only [HostOp.after] <;> (try split) <;> rfl

@[simp] theorem after_out (op : HostOp) (rest : List HostOp) (s : State) : (op.after rest s).out = s.out := by
  cases op <;> simp only [HostOp.after] <;> (try split) <;> rfl

@[simp] theorem after_rstIn (op : HostOp) (rest : List HostOp) (s : State) :
    (op.after rest s).rstIn = s.rstIn := by
  cases op <;> simp only [HostOp.after] <;> (try split) <;> rfl

@[simp] theorem after_resetDraws (op : HostOp) (rest : List HostOp) (s : State) :
    (op.after rest s).resetDraws = s.resetDraws := by
  cases op <;> simp only [HostOp.after] <;> (try split) <;> rfl

@[simp] theorem onNext_next (f : State → State) (s : State) : onNext f (.next s) = .next (f s) := rfl

@[simp] theorem onNext_refused (f : State → State) (r : Refusal) : onNext f (.refused r) = .refused r := rfl

/-! ## One cycle -/

/-- `busy` of a cycle is whether the phase is not IDLE (R111, R720). -/
theorem busy_eq_decide (S : Regs) : S.busy = decide (S.phase ≠ .idle) := by
  cases h : S.phase <;> simp [Regs.busy, h]

/-- A cycle in the terms of the statements. -/
theorem clock_eq_cycled (s : State) (v : Word) (w : HostWrite) :
    s.clock v w = s.cycled v (w s.regs (datapath s.regs)) := by
  simp only [State.clock, State.cycled, Regs.outputs, busy_eq_decide]

/-- The registers after a cycle with the input `rst` and the transaction `txn`. -/
def cycleRegs (rst : Bool) (txn : Option TWord) (S : Regs) : Regs :=
  if rst then Regs.reset
  else
    match txn with
    | none => datapath S
    | some T => instrHostWrite (decode T) S (datapath S)

/-- The state after a cycle with the transaction `txn`. -/
def cycleState (txn : Option TWord) (s : State) : State :=
  if s.rstNow then resetCycle s
  else
    match txn with
    | none => idleCycle s
    | some T => s.clock (instrReadData s.regs (decode T)) (instrHostWrite (decode T))

/-- Every cycle answers a next state. -/
theorem busCycle_eq (txn : Option TWord) (s : State) : busCycle txn s = .next (cycleState txn s) := by
  unfold busCycle cycleState
  split
  · rfl
  · cases txn with
    | none => rfl
    | some T => exact exec_eq_clock _ _

theorem cycleState_regs (txn : Option TWord) (s : State) :
    (cycleState txn s).regs = cycleRegs s.rstNow txn s.regs := by
  unfold cycleState cycleRegs
  split
  · rfl
  · cases txn <;> rfl

@[simp] theorem cycleState_hostOps (txn : Option TWord) (s : State) : (cycleState txn s).hostOps = s.hostOps := by
  unfold cycleState; split
  · rfl
  · cases txn <;> rfl

@[simp] theorem cycleState_rstIn (txn : Option TWord) (s : State) : (cycleState txn s).rstIn = s.rstIn := by
  unfold cycleState; split
  · rfl
  · cases txn <;> rfl

@[simp] theorem cycleState_kept (txn : Option TWord) (s : State) : (cycleState txn s).kept = s.kept := by
  unfold cycleState; split
  · rfl
  · cases txn <;> rfl

/-- A cycle whose action presents `txn` answers a next state. -/
theorem hostCycle_eq {op : HostOp} {txn : Option TWord} (h : op.presents = .ok txn) (rest : List HostOp) (s : State) :
    hostCycle op rest s = .next (op.after rest (cycleState txn s).dropRst) := by
  rw [hostCycle, h]; simp only [busCycle_eq, onNext_next]

theorem step_nil {s : State} (h : s.hostOps = []) : step s = .next (cycleState none s).dropRst := by
  simp only [step, h, restCycle, busCycle_eq, onNext_next]

theorem step_cons {s : State} {op : HostOp} {rest : List HostOp} {txn : Option TWord} (h : s.hostOps = op :: rest)
    (hp : op.presents = .ok txn) : step s = .next (op.after rest (cycleState txn s).dropRst) := by
  simp only [step, h, hostCycle_eq hp]

/-- A step refuses exactly what its action refuses. -/
theorem step_refused {s : State} {op : HostOp} {rest : List HostOp} {r : Refusal} (h : s.hostOps = op :: rest)
    (hp : op.presents = .error r) : step s = .refused r := by
  simp only [step, h, hostCycle, hp]

theorem presents_nil {s : State} (h : s.hostOps = []) : s.presents = .ok none := by
  simp only [State.presents, h]

theorem presents_cons {s : State} {op : HostOp} {rest : List HostOp} (h : s.hostOps = op :: rest) :
    s.presents = op.presents := by
  simp only [State.presents, h]

/-- The cases of what the host presents. -/
theorem presents_cases {s : State} {txn : Option TWord} (h : s.presents = .ok txn) :
    (s.hostOps = [] ∧ txn = none) ∨ ∃ op rest, s.hostOps = op :: rest ∧ op.presents = .ok txn := by
  cases ho : s.hostOps with
  | nil => rw [presents_nil ho] at h; cases h; exact .inl ⟨rfl, rfl⟩
  | cons op rest => exact .inr ⟨op, rest, rfl, presents_cons ho ▸ h⟩

/-- The block's side of a step with the transaction `txn`, or none: it answers, and its registers and outputs are those
of the cycle. -/
theorem step_of_presents {s : State} {txn : Option TWord} (h : s.presents = .ok txn) :
    ∃ u, step s = .next u ∧ u.regs = cycleRegs s.rstNow txn s.regs ∧ u.out = (cycleState txn s).out ∧
      u.rstIn = s.rstIn.tail := by
  obtain ⟨ho, rfl⟩ | ⟨op, rest, ho, hp⟩ := presents_cases h
  · exact ⟨_, step_nil ho, by simp [cycleState_regs], by simp, by simp⟩
  · exact ⟨_, step_cons ho hp, by simp [cycleState_regs], by simp, by simp⟩

/-- The inversion of a step over the registers. -/
theorem step_regs {s t : State} (h : step s = .next t) :
    ∃ txn, s.presents = .ok txn ∧ t.regs = cycleRegs s.rstNow txn s.regs ∧ t.rstIn = s.rstIn.tail := by
  cases hp : s.presents with
  | error r =>
    cases ho : s.hostOps with
    | nil => rw [presents_nil ho] at hp; cases hp
    | cons op rest => rw [step_refused ho (presents_cons ho ▸ hp)] at h; cases h
  | ok txn =>
    obtain ⟨u, hu, hr, -, hi⟩ := step_of_presents hp
    cases hu.symm.trans h
    exact ⟨txn, rfl, hr, hi⟩

/-- A step whose action is on the bus, if it has one, answers a next state. -/
theorem step_of_onBus {s : State} (h : ∀ op ∈ s.hostOps.head?, op.onBus) : ∃ t, step s = .next t := by
  cases ho : s.hostOps with
  | nil => exact ⟨_, step_nil ho⟩
  | cons op rest =>
    obtain ⟨txn, hp⟩ := h op (by simp [ho])
    exact ⟨_, step_cons ho hp⟩

/-- A step whose host action is a transaction, with no reset: the registers, the host's list and what it kept. -/
theorem step_txn {s : State} {T : TWord} {rest : List HostOp} (ho : s.hostOps = .txn T :: rest)
    (hr : s.rstNow = false) :
    ∃ u, step s = .next u ∧ u.regs = instrHostWrite (decode T) s.regs (datapath s.regs) ∧ u.hostOps = rest ∧
      u.rstIn = s.rstIn.tail ∧
      u.kept = if T.we then s.kept else s.kept ++ [instrReadData s.regs (decode T)] := by
  refine ⟨_, step_cons ho rfl, ?_, ?_, by simp, ?_⟩
  · simp [cycleState_regs, hr, cycleRegs]
  · simp only [HostOp.after]; split <;> rfl
  · simp only [HostOp.after]; split <;> simp [cycleState, hr, Regs.outputs]

/-- What the host has left after an action was there before it. -/
theorem mem_after_hostOps {op p : HostOp} {rest : List HostOp} {s : State} (hs : s.hostOps = op :: rest)
    (hp : p ∈ (op.after rest s).hostOps) : p ∈ op :: rest := by
  cases op <;> simp only [HostOp.after] at hp <;> (try split at hp) <;> simp_all

/-! ## The reset input -/

theorem State.noReset.now {s : State} {k : Nat} (h : s.noReset (k + 1)) : s.rstNow = false := by
  unfold State.rstNow
  cases hl : s.rstIn with
  | nil => rfl
  | cons b bs => exact h b (by simp [hl])

theorem State.noReset.mono {s : State} {j k : Nat} (h : s.noReset k) (hjk : j ≤ k) : s.noReset j := by
  intro b hb
  apply h
  rw [← Nat.min_eq_left hjk, ← List.take_take] at hb
  exact List.mem_of_mem_take hb

theorem State.noReset.drop {s u : State} {j k : Nat} (h : s.noReset (j + k)) (hu : u.rstIn = s.rstIn.drop j) :
    u.noReset k := by
  intro b hb
  rw [hu] at hb
  apply h
  rw [List.take_add]
  exact List.mem_append_right _ hb

/-! ## Runs -/

@[simp] theorem run_zero (s : State) : run 0 s = .next s := rfl

theorem run_succ_of_next {s t : State} (k : Nat) (h : step s = .next t) : run (k + 1) s = run k t := by
  have : Sys2Proof.core.step s = .next t := h
  simp only [run, Host.Core.run, this]
  rfl

theorem run_add {s t : State} (j k : Nat) (h : run j s = .next t) : run (j + k) s = run k t := by
  induction j generalizing s with
  | zero => cases h; simp
  | succ j ih =>
    rw [show j + 1 + k = (j + k) + 1 by omega]
    cases hs : step s with
    | next u =>
      rw [run_succ_of_next _ hs] at h ⊢
      exact ih h
    | fault r => cases r
    | refused r =>
      have : Sys2Proof.core.step s = .refused r := hs
      simp [run, Host.Core.run, this] at h

/-- The last cycle of a run. -/
theorem run_succ_last {s t u : State} (k : Nat) (h : run k s = .next t) (hu : step t = .next u) :
    run (k + 1) s = .next u := by
  rw [run_add k 1 h, run_succ_of_next _ hu, run_zero]

end Sys2Proof.Machine
end

