-- ==== Sys2Proof/Tests/Slice0.lean ====
section
/-! SUPPORT. Tests: ill-formed terms, words written out from the encodings of 30_encoding.md, single cycles and vectors
from 95_test_vectors.md, and for each statement with hypotheses a state that meets them. -/

namespace Sys2Proof.Tests

open Sys2Proof.Machine

/-- The outcome is a next state that passes the check. -/
def nextIs (o : Host.Outcome State Fault Refusal) (p : State → Bool) : Bool :=
  match o with
  | .next s => p s
  | _ => false

/-- The machine with the registers `S` and the host actions `ops`, and no reset in sight. -/
def mk (S : Regs) (ops : List HostOp) : State := { State.reset with regs := S, hostOps := ops }

/-- A block with a digest in HASH, idle. -/
def idleRegs : Regs := { Regs.reset with hash := Vector.replicate 8 0x11111111, valid := true }

/-- A block in its first round. -/
def roundRegs : Regs := { Regs.reset with phase := .round }

/-- A block in its FINAL cycle, with ERR set. -/
def finalRegs : Regs :=
  { Regs.reset with phase := .final, err := true, hash := iv, work := ⟨1, 2, 3, 4, 5, 6, 7, 8⟩ }

/-- The block of "abc" (95_test_vectors.md, section 2). -/
def abcBlock : Vector Word 16 := #v[0x61626380, 0, 0, 0, 0, 0, 0, 0, 0, 0, 0, 0, 0, 0, 0, 0x18]

/-! ## Ill-formed terms, one for each check of `Instr.wf` -/

theorem test_wf_refuses_cmdRsvd4_low : (.cmdRsvd4 0x3 0 : Instr).wf = false := by decide

theorem test_wf_refuses_cmdRsvd8_low : (.cmdRsvd8 0x7 0 : Instr).wf = false := by decide

theorem test_wf_refuses_rdRsvd04 : (.rdRsvd04 0x08 0 : Instr).wf = false := by decide

theorem test_wf_refuses_rdRsvd08 : (.rdRsvd08 0x10 0 : Instr).wf = false := by decide

theorem test_wf_refuses_rdRsvd28 : (.rdRsvd28 0x27 0 : Instr).wf = false := by decide

theorem test_wf_refuses_rdRsvd30 : (.rdRsvd30 0x2F 0 : Instr).wf = false := by decide

theorem test_wf_refuses_wrRsvd04 : (.wrRsvd04 0x03 0 : Instr).wf = false := by decide

theorem test_wf_refuses_wrRsvd08 : (.wrRsvd08 0x07 0 : Instr).wf = false := by decide

theorem test_wf_refuses_wrRsvd28 : (.wrRsvd28 0x30 0 : Instr).wf = false := by decide

theorem test_wf_refuses_wrRsvd30 : (.wrRsvd30 0x00 0 : Instr).wf = false := by decide

/-! ## Decoding: every row's word written out bit by bit from R300, R301 and R305 -/

theorem test_decode_cmdNop :
    decode 0b1_000010_1010101111001101111000010010_0000 = .cmdNop 0xabcde12 := by decide

theorem test_decode_cmdInit :
    decode 0b1_000010_1010101111001101111000010010_0001 = .cmdInit 0xabcde12 := by decide

theorem test_decode_cmdNext :
    decode 0b1_000010_1010101111001101111000010010_0010 = .cmdNext 0xabcde12 := by decide

theorem test_decode_cmdFirst :
    decode 0b1_000010_1010101111001101111000010010_0011 = .cmdFirst 0xabcde12 := by decide

theorem test_decode_cmdRsvd4 :
    decode 0b1_000010_1010101111001101111000010010_0110 = .cmdRsvd4 0x6 0xabcde12 := by decide

theorem test_decode_cmdRsvd8 :
    decode 0b1_000010_1010101111001101111000010010_1101 = .cmdRsvd8 0xD 0xabcde12 := by decide

theorem test_decode_rdId :
    decode 0b0_000000_11011110101011011011111011101111 = .rdId 0xdeadbeef := by decide

theorem test_decode_rdVersion :
    decode 0b0_000001_11011110101011011011111011101111 = .rdVersion 0xdeadbeef := by decide

theorem test_decode_rdCtrl :
    decode 0b0_000010_11011110101011011011111011101111 = .rdCtrl 0xdeadbeef := by decide

theorem test_decode_rdStatus :
    decode 0b0_000011_11011110101011011011111011101111 = .rdStatus 0xdeadbeef := by decide

theorem test_decode_rdMsg :
    decode 0b0_011011_11011110101011011011111011101111 = .rdMsg 11 0xdeadbeef := by decide

theorem test_decode_rdDigest :
    decode 0b0_100110_11011110101011011011111011101111 = .rdDigest 6 0xdeadbeef := by decide

theorem test_decode_rdRsvd04 :
    decode 0b0_000110_11011110101011011011111011101111 = .rdRsvd04 0x06 0xdeadbeef := by decide

theorem test_decode_rdRsvd08 :
    decode 0b0_001101_11011110101011011011111011101111 = .rdRsvd08 0x0D 0xdeadbeef := by decide

theorem test_decode_rdRsvd28 :
    decode 0b0_101010_11011110101011011011111011101111 = .rdRsvd28 0x2A 0xdeadbeef := by decide

theorem test_decode_rdRsvd30 :
    decode 0b0_110101_11011110101011011011111011101111 = .rdRsvd30 0x35 0xdeadbeef := by decide

theorem test_decode_wrId :
    decode 0b1_000000_11011110101011011011111011101111 = .wrId 0xdeadbeef := by decide

theorem test_decode_wrVersion :
    decode 0b1_000001_11011110101011011011111011101111 = .wrVersion 0xdeadbeef := by decide

theorem test_decode_wrStatus :
    decode 0b1_000011_11011110101011011011111011101111 = .wrStatus 0xdeadbeef := by decide

theorem test_decode_wrMsg :
    decode 0b1_010110_11011110101011011011111011101111 = .wrMsg 6 0xdeadbeef := by decide

theorem test_decode_wrDigest :
    decode 0b1_100101_11011110101011011011111011101111 = .wrDigest 5 0xdeadbeef := by decide

theorem test_decode_wrRsvd04 :
    decode 0b1_000101_11011110101011011011111011101111 = .wrRsvd04 0x05 0xdeadbeef := by decide

theorem test_decode_wrRsvd08 :
    decode 0b1_001111_11011110101011011011111011101111 = .wrRsvd08 0x0F 0xdeadbeef := by decide

theorem test_decode_wrRsvd28 :
    decode 0b1_101111_11011110101011011011111011101111 = .wrRsvd28 0x2F 0xdeadbeef := by decide

theorem test_decode_wrRsvd30 :
    decode 0b1_110000_11011110101011011011111011101111 = .wrRsvd30 0x30 0xdeadbeef := by decide

/-! ## The host's questions -/

/-- The example of R306, through the table's numbering. -/
theorem test_decodeTableWord : decodeTableWord 40 0x5061626380 = some (.wrMsg 0 0x61626380) := by decide

/-- Bits above `nbits` are 0. -/
theorem test_decodeTableWord_short : decodeTableWord 32 0x4200000001 = some (.rdId 1) := by decide

/-- A word of more than 39 bits is no transaction word (R300). -/
theorem test_decodeBits_wide : decodeBits 0x8000000000 = .error .widerThanTransactionWord := by rfl

theorem test_withFetchWord_runs_it :
    nextIs (step (State.reset.withFetchWord 40 0x5061626380)) fun s =>
      s.regs.msg == (Regs.reset.msg.set 0 0x61626380) && s.hostOps == [] && s.rstIn == [] := by decide

/-! ## Single cycles (95_test_vectors.md, section 7, by row) -/

/-- Row 16. -/
theorem test_nop_in_round :
    nextIs (exec (decode 0x42fffffff0) (mk idleRegs [])) fun s => s.regs == idleRegs && s.out.rdata == 0 := by decide

/-- Row 11. -/
theorem test_init_idle :
    nextIs (exec (decode 0x4200000001) (mk idleRegs [])) fun s =>
      s.regs.hash == iv && !s.regs.valid && !s.regs.err && s.regs.phase == .idle := by decide

/-- Row 12. -/
theorem test_init_in_round :
    nextIs (exec (decode 0x4200000001) (mk roundRegs [])) fun s =>
      s.regs.err && s.regs.hash == roundRegs.hash && s.regs.t == 1 := by decide

/-- R802: the working variables from HASH, the window from MSG. -/
theorem test_next_idle :
    nextIs (exec (decode 0x4200000002) (mk { idleRegs with msg := abcBlock } [])) fun s =>
      s.regs.phase == .round && s.regs.t == 0 && s.regs.win == abcBlock && s.regs.work.h == 0x11111111 &&
        !s.regs.valid := by decide

/-- Row 13. -/
theorem test_next_in_final :
    nextIs (exec (decode 0x4200000002) (mk finalRegs [])) fun s =>
      s.regs.err && s.regs.phase == .idle && s.regs.valid && s.regs.hash[0] == 0x6A09E668 && s.out.busy := by decide

/-- Row 14. -/
theorem test_first_idle :
    nextIs (exec (decode 0x42abcde003) (mk idleRegs [])) fun s =>
      s.regs.hash == iv && s.regs.work.a == 0x6A09E667 && s.regs.phase == .round && !s.regs.valid := by decide

/-- Row 15. -/
theorem test_rsvd4_idle :
    nextIs (exec (decode 0x4200000005) (mk idleRegs [])) fun s => s.regs == { idleRegs with err := true } := by decide

/-- R804, busy. -/
theorem test_rsvd8_in_round :
    nextIs (exec (decode 0x420000000f) (mk roundRegs [])) fun s => s.regs.err && s.regs.t == 1 := by decide

/-- Row 1. -/
theorem test_rdId : nextIs (exec (decode 0x0000000000) State.reset) (·.out.rdata == 0x53323536) := by decide

/-- Row 2. -/
theorem test_rdVersion : nextIs (exec (decode 0x0100000000) State.reset) (·.out.rdata == 0x00010000) := by decide

/-- Row 3. -/
theorem test_rdCtrl : nextIs (exec (decode 0x0200000000) (mk idleRegs [])) (·.out.rdata == 0) := by decide

/-- Row 6: the FINAL edge still happens. -/
theorem test_rdStatus_in_final :
    nextIs (exec (decode 0x0300000000) (mk finalRegs [])) fun s =>
      s.out.rdata == 0x00000005 && s.regs.valid && s.regs.err := by decide

/-- Row 7. -/
theorem test_rdStatus_idle :
    nextIs (exec (decode 0x0300000000) (mk { idleRegs with err := true } [])) (·.out.rdata == 0x00000006) := by decide

/-- R904. -/
theorem test_rdMsg :
    nextIs (exec (decode 0x1f00000000) (mk { roundRegs with msg := abcBlock } [])) (·.out.rdata == 0x18) := by decide

/-- Row 20. -/
theorem test_rdDigest_in_final :
    nextIs (exec (decode 0x2000000000) (mk finalRegs [])) (·.out.rdata == 0x6A09E667) := by decide

theorem test_rdRsvd04 : nextIs (exec (decode 0x0700000000) (mk idleRegs [])) (·.out.rdata == 0) := by decide

theorem test_rdRsvd08 : nextIs (exec (decode 0x0800000000) (mk idleRegs [])) (·.out.rdata == 0) := by decide

theorem test_rdRsvd28 : nextIs (exec (decode 0x2800000000) (mk idleRegs [])) (·.out.rdata == 0) := by decide

/-- Row 8. -/
theorem test_rdRsvd30 : nextIs (exec (decode 0x3f00000000) (mk idleRegs [])) (·.out.rdata == 0) := by decide

theorem test_wrId : nextIs (exec (decode 0x40ffffffff) (mk idleRegs [])) (·.regs == idleRegs) := by decide

theorem test_wrVersion : nextIs (exec (decode 0x41ffffffff) (mk idleRegs [])) (·.regs == idleRegs) := by decide

/-- Row 18. -/
theorem test_wrStatus_clears :
    nextIs (exec (decode 0x4300000004) (mk finalRegs [])) fun s => !s.regs.err && s.regs.valid := by decide

/-- Row 17. -/
theorem test_wrStatus_keeps :
    nextIs (exec (decode 0x4300000003) (mk { idleRegs with err := true } [])) (·.regs.err) := by decide

/-- Row 19. -/
theorem test_wrMsg_in_round :
    nextIs (exec (decode 0x53deadbeef) (mk roundRegs [])) fun s =>
      s.regs.msg == roundRegs.msg.set 3 0xDEADBEEF && s.regs.win == roundRegs.win && !s.regs.err := by decide

/-- Row 10. -/
theorem test_wrDigest : nextIs (exec (decode 0x6012345678) (mk idleRegs [])) (·.regs == idleRegs) := by decide

/-- Row 9. -/
theorem test_wrRsvd04 : nextIs (exec (decode 0x44ffffffff) (mk idleRegs [])) (·.regs == idleRegs) := by decide

theorem test_wrRsvd08 : nextIs (exec (decode 0x4fffffffff) (mk idleRegs [])) (·.regs == idleRegs) := by decide

theorem test_wrRsvd28 : nextIs (exec (decode 0x68ffffffff) (mk idleRegs [])) (·.regs == idleRegs) := by decide

theorem test_wrRsvd30 : nextIs (exec (decode 0x7fffffffff) (mk idleRegs [])) (·.regs == idleRegs) := by decide

/-- Row 21: the write is discarded, whatever the read data is. -/
theorem test_reset_cycle :
    nextIs (step { mk finalRegs [.txn 0x4200000003] with rstIn := [true] }) fun s =>
      s.regs == Regs.reset && s.out.busy && !s.out.valid && s.hostOps == [] := by decide

/-! ## Vectors -/

/-- R500 (95_test_vectors.md, section 3). -/
theorem test_add : (0xFFFFFFFF + 0x00000001 : Word) = 0 ∧ (0x12345678 + 0x9ABCDEF0 : Word) = 0xACF13568 := by decide

/-- Rows of section 3's table of the sigma functions. -/
theorem test_sigma :
    bsig0 0xAAAAAAAA = 0x55555555 ∧ bsig1 0x6A09E667 = 0x55B65510 ∧ ssig0 0x6A09E667 = 0xBA0CF582 ∧
      ssig1 0x80000000 = 0x00205000 := by decide

/-- Ch and Maj of the initial hash state (section 3). -/
theorem test_ch_maj :
    ch 0x510E527F 0x9B05688C 0x1F83D9AB = 0x1F85C98C ∧ maj 0x6A09E667 0xBB67AE85 0x3C6EF372 = 0x3A6FE667 := by decide

/-- W[16], W[17], W[63] and W[79] of "abc" (section 4). -/
theorem test_schedule_abc :
    schedule abcBlock 16 = 0x61626380 ∧ schedule abcBlock 17 = 0x000F0000 ∧ schedule abcBlock 63 = 0x12B1EDEB ∧
      schedule abcBlock 79 = 0xBE66BC93 := by decide +kernel

/-- Round 0 of "abc" (section 5). -/
theorem test_round0_abc :
    roundStep (kAt 0) 0x61626380 (Work.load iv) =
      ⟨0x5D6AEBCD, 0x6A09E667, 0xBB67AE85, 0x3C6EF372, 0xFA2A4622, 0x510E527F, 0x9B05688C, 0x1F83D9AB⟩ := by decide

/-- Round 63 of "abc" (section 5). -/
theorem test_round63_abc :
    roundStep (kAt 63) 0x12B1EDEB
        ⟨0xD39A2165, 0x04D24D6C, 0xB85E2CE9, 0xB6AE8FFF, 0xFB121210, 0x948D25B6, 0x961F4894, 0xB21BAD3D⟩ =
      ⟨0x506E3058, 0xD39A2165, 0x04D24D6C, 0xB85E2CE9, 0x5EF50F24, 0xFB121210, 0x948D25B6, 0x961F4894⟩ := by decide

/-- The last row but one of section 6: NEXT from the reset HASH (R807). -/
theorem test_compress_zero :
    compress (Vector.replicate 8 0) (Vector.replicate 16 0) =
      #v[0x7CA51614, 0x425C3BA8, 0xCE54DD2F, 0xC2020AE7, 0xB6E574D1, 0x98136D0F, 0xAE7E26CC, 0xBF0BE7A6] := by
  decide +kernel

/-- The block counts of section 2. -/
theorem test_block_counts :
    [0, 55, 56, 63, 64, 119, 120].map (fun n => (blocksOf (List.replicate n 0)).length) = [1, 1, 2, 2, 2, 2, 3] := by
  decide +kernel

/-- The source's vector for "" (section 1). -/
theorem test_digest_empty :
    (sha256Digest []).map hexRender =
      some "e3b0c44298fc1c149afbf4c8996fb92427ae41e4649b934ca495991b7852b855".toList := by decide +kernel

/-- The source's vector for "abc" (section 1). -/
theorem test_digest_abc :
    (sha256Digest [0x61, 0x62, 0x63]).map hexRender =
      some "ba7816bf8f01cfea414140de5dae2223b00361a396177a9cb410ff61f20015ad".toList := by decide +kernel

/-- The source's vector for "hello" (section 1). -/
theorem test_digest_hello :
    (sha256Digest [0x68, 0x65, 0x6C, 0x6C, 0x6F]).map hexRender =
      some "2cf24dba5fb0a30e26e83b2ac5b9e29e1b161e5c1fa7425e73043362938b9824".toList := by decide +kernel

/-! ## Witnesses: for each statement with hypotheses, data that meet them -/

/-- An idle block in the invariant. -/
theorem inv_of_idle (S : Regs) (hp : S.phase = .idle) (ht : S.t = 0) : S.Inv where
  t_zero := fun _ => ht
  busy_not_valid := fun h => absurd hp h
  in_round := fun h => by rw [hp] at h; cases h
  in_final := fun h => by rw [hp] at h; cases h

/-- A block in round 0 of the all-zero block's compression is in the invariant. -/
theorem test_inv_round : ({ roundRegs with work := Work.load roundRegs.hash } : Regs).Inv where
  t_zero := fun h => absurd rfl h
  busy_not_valid := fun _ => rfl
  in_round := fun _ => ⟨Vector.replicate 16 0, by decide, rfl⟩
  in_final := fun h => by cases h

/-- A transaction is on the bus. -/
theorem onBus_txn (T : TWord) : (HostOp.txn T).onBus := ⟨_, rfl⟩

/-- ResetCycleLeavesTheResetState, ResetCycleDrivesTheDraw: a command presented in a reset cycle in the FINAL phase. -/
theorem test_meets_reset_cycle :
    ∃ s : State, s.rstNow = true ∧ (∀ op ∈ s.hostOps.head?, op.onBus) ∧ s.regs.phase = .final :=
  ⟨{ mk finalRegs [.txn 0x4200000003] with rstIn := [true] }, rfl, fun op h => by cases h; exact onBus_txn _, rfl⟩

/-- IdleCycleRunsOnlyTheDatapath, in a running compression: an IDLE action, and a host with no action left. -/
theorem test_meets_idle_cycle :
    (∃ s : State, s.rstNow = false ∧ s.presents = .ok none ∧ s.hostOps = [.idle] ∧ s.regs.phase = .round) ∧
      ∃ s : State, s.rstNow = false ∧ s.presents = .ok none ∧ s.hostOps = [] ∧ s.regs.phase = .round :=
  ⟨⟨mk roundRegs [.idle], rfl, rfl, rfl, rfl⟩, ⟨mk roundRegs [], rfl, rfl, rfl, rfl⟩⟩

/-- StepRunsTheDecodedInstruction: a read and a write. -/
theorem test_meets_step :
    (∃ s : State, s.rstNow = false ∧ s.hostOps = .txn 0x0300000000 :: []) ∧
      ∃ s : State, s.rstNow = false ∧ s.hostOps = .txn 0x5061626380 :: [.idle] :=
  ⟨⟨mk idleRegs [.txn 0x0300000000], rfl, rfl⟩, ⟨mk idleRegs [.txn 0x5061626380, .idle], rfl, rfl⟩⟩

/-- PollRepeatsTheReadUntilItMatches: WAIT while busy, so that it repeats, and while idle, so that it ends. -/
theorem test_meets_poll :
    (∃ s : State, s.rstNow = false ∧ s.hostOps = lineWait.ops ++ [] ∧
      nextIs (step s) fun u => u.hostOps == s.hostOps && u.out.rdata == 1) ∧
    ∃ s : State, s.rstNow = false ∧ s.hostOps = lineWait.ops ++ [] ∧
      nextIs (step s) fun u => u.hostOps == [] && u.out.rdata == 2 :=
  ⟨⟨mk roundRegs lineWait.ops, rfl, rfl, by decide⟩, ⟨mk idleRegs lineWait.ops, rfl, rfl, by decide⟩⟩

/-- PlatformAccessReachesRegisterIndex: both clauses at the first and the last register, and an access that succeeds. -/
theorem test_meets_platform (i : RegAddr) (hi : i = 0x00 ∨ i = 0x3F) :
    ∃ acc : PlatformAccess, acc.bytes = 4 ∧ acc.byteAddr = Config.shaBase + 4 * i.toNat ∧ ∃ T, acc.toTxn = .ok T := by
  refine ⟨⟨Config.shaBase + 4 * i.toNat, 4, true, 7⟩, rfl, rfl, ?_⟩
  rcases hi with rfl | rfl <;> exact ⟨_, by simp [PlatformAccess.toTxn]; rfl⟩

/-- EveryCycleIsTheSpecStep: each kind of action presents what it presents, and a host with no action left nothing. -/
theorem test_meets_spec_step :
    (∀ T, (mk idleRegs [.txn T]).presents = .ok (some T)) ∧ (mk idleRegs [.idle]).presents = .ok none ∧
      (mk idleRegs []).presents = .ok none ∧
      (mk idleRegs [.poll 0x03 1 0]).presents = .ok (some 0x0300000000) ∧
      ∃ T, (mk idleRegs [.platform ⟨Config.shaBase + 8, 4, true, 3⟩]).presents = .ok (some T) :=
  ⟨fun _ => rfl, rfl, rfl, rfl, ⟨_, by simp [State.presents, mk, HostOp.presents, PlatformAccess.toTxn, Except.map]; rfl⟩⟩

/-- StepRefusesOnlyPlatformAccesses: each refusal occurs. -/
theorem test_meets_refusals :
    (PlatformAccess.toTxn ⟨Config.shaBase, 2, false, 0⟩ = .error .platformWidth) ∧
      (PlatformAccess.toTxn ⟨Config.shaBase + 3, 4, false, 0⟩ = .error .platformMisaligned) ∧
      (PlatformAccess.toTxn ⟨Config.shaBase + 256, 4, false, 0⟩ = .error .platformOutsideBlock) := by
  refine ⟨rfl, ?_, ?_⟩ <;> simp [PlatformAccess.toTxn]

/-- DecodeOfEncodeIsTheInstruction, EveryInstructionActsAsACanonicalOne, RowMatch: well-formed terms at both ends of every checked range. -/
theorem test_meets_wf :
    ∀ i ∈ ([.cmdRsvd4 0x4 0, .cmdRsvd4 0x7 0, .cmdRsvd8 0x8 0, .cmdRsvd8 0xF 0, .rdRsvd04 0x04 0, .rdRsvd04 0x07 0,
      .rdRsvd08 0x08 0, .rdRsvd08 0x0F 0, .rdRsvd28 0x28 0, .rdRsvd28 0x2F 0, .rdRsvd30 0x30 0, .rdRsvd30 0x3F 0,
      .wrRsvd04 0x04 0, .wrRsvd04 0x07 0, .wrRsvd08 0x08 0, .wrRsvd08 0x0F 0, .wrRsvd28 0x28 0, .wrRsvd28 0x2F 0,
      .wrRsvd30 0x30 0, .wrRsvd30 0x3F 0, .cmdNop 1, .wrMsg 15 1] : List Instr), i.wf = true := by decide

/-- CtrlWriteIsDispatchedOnTheOpcode: a command word for each clause, with bits in C[31:4]. -/
theorem test_meets_dispatch :
    (0xFFFFFFF0 : Word) &&& 0xF = 0x0 ∧ (0x00000011 : Word) &&& 0xF = 0x1 ∧ (0x00000012 : Word) &&& 0xF = 0x2 ∧
      (0xABCDE003 : Word) &&& 0xF = 0x3 ∧ 0x4 ≤ ((0x00000004 : Word) &&& 0xF).toNat ∧
      0x4 ≤ ((0x0000001F : Word) &&& 0xF).toNat ∧ (0xABCDE003 : Word) &&& 0xF = (0x00000003 : Word) &&& 0xF := by
  decide

/-- RotateRightMovesEveryBit, ShiftRightFillsWithZeros: the ends of the ranges of the amount and of the bit. -/
theorem test_meets_shift :
    rotr 0x00000001 31 = 0x00000002 ∧ rotr 0x80000000 1 = 0x40000000 ∧ shr 0x80000000 1 = 0x40000000 ∧
      (rotr 0x00000001 1).getLsbD 31 = true ∧ (shr 0xFFFFFFFF 1).getLsbD 31 = false := by decide

/-- RoundCyclePerformsOneRound: an inner round and the last one, told apart by t. -/
theorem test_meets_round :
    roundRegs.phase = .round ∧ (datapath roundRegs).t = 1 ∧ (datapath roundRegs).phase = .round ∧
      (datapath { roundRegs with t := 63 }).t = 0 ∧ (datapath { roundRegs with t := 63 }).phase = .final := by decide

/-- FinalCycleAddsIntoHash, and the clauses by phase of the command statements, DatapathAndHostWriteDisjointRegisters and
MsgDoesNotReachARunningCompression: a state in each phase. -/
theorem test_meets_phases :
    idleRegs.phase = .idle ∧ roundRegs.phase ≠ .idle ∧ roundRegs.phase = .round ∧ finalRegs.phase ≠ .idle ∧
      finalRegs.phase = .final := by decide

/-- RejectedCommandChangesOnlyErr, ErrIsSetAndClearedByExactlyTheseEvents: each kind of rejected command, and a
transaction of no such kind. -/
theorem test_meets_rejected :
    (Instr.cmdInit 0).testsPhase ∧ (Instr.cmdNext 0).testsPhase ∧ (Instr.cmdFirst 0).testsPhase ∧
      (Instr.cmdRsvd4 0x4 0).isReservedCommand ∧ (Instr.cmdRsvd8 0xF 0).isReservedCommand ∧
      ¬ (Instr.cmdNop 0).testsPhase ∧ ¬ (Instr.wrStatus 4).isReservedCommand ∧ (4 : Word).getLsbD 2 = true := by
  simp [Instr.testsPhase, Instr.isReservedCommand, Instr.row]

/-- ReservedCommandSetsErr, ConstantReadsAnswerTheirConstant, ReadOnlyAndReservedWritesAreIgnored: the ends of the ranges
of reserved opcodes and indices. -/
theorem test_meets_ranges :
    0x4 ≤ (0x4 : BitVec 4).toNat ∧ (0x7 : BitVec 4).toNat ≤ 0x7 ∧ 0x8 ≤ (0x8 : BitVec 4).toNat ∧
      0x04 ≤ (0x04 : RegAddr).toNat ∧ (0x07 : RegAddr).toNat ≤ 0x07 ∧ 0x08 ≤ (0x08 : RegAddr).toNat ∧
      (0x0F : RegAddr).toNat ≤ 0x0F ∧ 0x28 ≤ (0x28 : RegAddr).toNat ∧ (0x2F : RegAddr).toNat ≤ 0x2F ∧
      0x30 ≤ (0x30 : RegAddr).toNat ∧ (0x3F : RegAddr).toNat ≤ 0x3F := by decide

/-- ValidIsSetByFinalAndClearedByCommands: states in the invariant, VALID set and BUSY set;
StatusReadShowsTheThreeFlags, DigestReadReturnsHash and MsgWordReadsBackWhatWasWritten: the registers of reset. -/
theorem test_meets_inv :
    (∃ s : State, s.regs.Inv ∧ s.regs.valid = true) ∧ (∃ s : State, s.regs.Inv ∧ s.regs.phase = .round) ∧
      ∃ s : State, s.regs = State.reset.regs :=
  ⟨⟨mk idleRegs [], inv_of_idle _ rfl rfl, rfl⟩, ⟨mk _ [], test_inv_round, rfl⟩, ⟨State.reset, rfl⟩⟩

/-- ValidIsSetByFinalAndClearedByCommands, last clause: a transaction that leaves VALID set. -/
theorem test_meets_valid_kept :
    nextIs (exec (.wrMsg 0 5) (mk idleRegs [])) fun t => t.regs.valid && t.regs.hash == idleRegs.hash := by decide

/-- DigestReadReturnsHash: an accepted INIT, and a transaction in the last round. -/
theorem test_meets_digest :
    (∃ t, idleRegs.phase = .idle ∧ exec (.cmdInit 0) (mk idleRegs []) = .next t) ∧
      ∃ t, roundRegs.phase = .round ∧ exec (.rdId 0) (mk { roundRegs with t := 63 } []) = .next t :=
  ⟨⟨_, rfl, rfl⟩, ⟨_, rfl, rfl⟩⟩

/-- ReadsAndIgnoredWritesHaveNoSideEffect: a word for each clause, the first and the last MSG word among them. -/
theorem test_meets_side_effects :
    TWord.we 0x2700000000 = false ∧
      (TWord.we 0x5000000001 = true ∧ 0x10 ≤ (TWord.addr 0x5000000001).toNat) ∧
      (TWord.we 0x5f00000001 = true ∧ (TWord.addr 0x5f00000001).toNat ≤ 0x1F) ∧
      (TWord.we 0x6000000001 = true ∧ TWord.addr 0x6000000001 ≠ 0x02 ∧ TWord.addr 0x6000000001 ≠ 0x03 ∧
        ¬ (0x10 ≤ (TWord.addr 0x6000000001).toNat ∧ (TWord.addr 0x6000000001).toNat ≤ 0x1F)) ∧
      (∃ t u, exec (decode 0x5000000001) (mk idleRegs []) = .next t ∧ exec (decode 0x5000000001) t = .next u) :=
  ⟨by decide, by decide, by decide, by decide, ⟨_, _, rfl, rfl⟩⟩

/-- TransactionChangesOnlyItsOwnSlot: a slot of each kind changes. -/
theorem test_meets_slot :
    nextIs (exec (decode 0x5f00000001) (mk idleRegs []))
        (fun t => readValue t.regs (some (readWord 0x1F)) != readValue idleRegs (some (readWord 0x1F))) ∧
      nextIs (exec (decode 0x4200000004) (mk idleRegs []))
        (fun t => readValue t.regs (some (readWord 0x03)) != readValue idleRegs (some (readWord 0x03))) ∧
      nextIs (exec (decode 0x4200000001) (mk idleRegs []))
        (fun t => readValue t.regs (some (readWord 0x27)) != readValue idleRegs (some (readWord 0x27))) := by decide

/-- HashIsWrittenOnlyByItsWriters, MsgIsWrittenOnlyByTheHost, EveryStepKeepsTheRegisterInvariant: steps that answer a
next state, from a state in the invariant; one writes MSG. -/
theorem test_meets_step_next :
    (mk idleRegs [.txn 0x5000000001]).regs.Inv ∧
      ∃ t, step (mk idleRegs [.txn 0x5000000001]) = .next t ∧ t.regs.msg ≠ idleRegs.msg :=
  ⟨inv_of_idle _ rfl rfl, _, rfl, by decide⟩

/-- AcceptedCompressionEndsInCycleSixtySix, CommandsAreRejectedForSixtyFiveCycles: a NEXT and a FIRST, with a MSG write and
a command after them. -/
theorem test_meets_accepted :
    ∀ T : TWord, T = 0x4200000002 ∨ T = 0x4200000003 →
      ∃ (s : State) (op : HostOp) (rest : List HostOp) (r : BitVec 28) (H : Vector Word 8),
        s.regs.phase = .idle ∧ s.hostOps = op :: rest ∧ op.presents = .ok (some T) ∧
        ((decode T = .cmdNext r ∧ H = s.regs.hash) ∨ (decode T = .cmdFirst r ∧ H = iv)) ∧
        ((decode T).row = .cmdNext ∨ (decode T).row = .cmdFirst) ∧ (∀ p ∈ rest, p.onBus) ∧ s.noReset 66 := by
  have onBus : ∀ p ∈ [HostOp.txn 0x5000000001, HostOp.txn 0x4200000001], p.onBus := by
    simp [onBus_txn]
  rintro T (rfl | rfl)
  · exact ⟨mk idleRegs [.txn 0x4200000002, .txn 0x5000000001, .txn 0x4200000001], _, _, 0, idleRegs.hash, rfl, rfl,
      rfl, .inl ⟨by decide, rfl⟩, .inl (by decide), onBus, fun b hb => by cases hb⟩
  · exact ⟨mk idleRegs [.txn 0x4200000003, .txn 0x5000000001, .txn 0x4200000001], _, _, 0, iv, rfl, rfl, rfl,
      .inr ⟨by decide, rfl⟩, .inr (by decide), onBus, fun b hb => by cases hb⟩

/-- FirstEqualsInitThenNext: afterwards a MSG write, a command that is rejected and a STATUS read. -/
theorem test_meets_first_init :
    ∃ (s : State) (rest : List HostOp), s.regs.phase = .idle ∧ (∀ p ∈ rest, p.onBus) ∧ s.noReset 67 ∧
      rest = [.txn 0x5000000001, .txn 0x4200000001, .txn 0x0300000000] :=
  ⟨mk idleRegs [], _, rfl, by simp [onBus_txn], fun b hb => (by cases hb), rfl⟩

/-- BlockWordsArePackedBigEndian: the message "abc" has a block. -/
theorem test_meets_packing : 0 < (blocksOf [0x61, 0x62, 0x63]).length := by decide +kernel

/-- ProcedureComputesTheDigestOfEveryMessage: the procedure for "abc" from an idle block. -/
theorem test_meets_procedure :
    ∃ (m : List Byte) (s : State), m = [0x61, 0x62, 0x63] ∧ 8 * m.length < 2 ^ 64 ∧ s.regs.phase = .idle ∧
      s.hostOps = opsOf (linesDigest (blocksOf m)) ∧ s.noReset (1 + 83 * (blocksOf m).length + 8) :=
  ⟨_, mk idleRegs (opsOf (linesDigest (blocksOf [0x61, 0x62, 0x63]))), rfl, by decide, rfl, rfl,
    fun b hb => by rw [show (mk idleRegs _).rstIn = [] from rfl, List.take_nil] at hb; cases hb⟩

end Sys2Proof.Tests
end

section
/-! PROOFS of the state's family (10_state.md): the reset values of the registers, and the writers of HASH. -/

open Sys2Proof Sys2Proof.Machine

namespace Sys2Proof.Machine

/-! ## The writers of HASH (R101) -/

/-- The datapath writes HASH only in FINAL (R710, R712, R713). -/
theorem datapath_hash_of_ne_final {S : Regs} (h : S.phase ≠ .final) : (datapath S).hash = S.hash := by
  cases hp : S.phase with
  | idle => rw [datapath_of_idle hp]
  | round => rw [datapath_of_round hp, roundCycle_hash]
  | final => exact absurd hp h

/-- A host write in a busy cycle does not reach HASH (R721). -/
theorem instrHostWrite_hash_of_busy (i : Instr) {S : Regs} (S1 : Regs) (h : S.phase ≠ .idle) :
    (instrHostWrite i S S1).hash = S1.hash := by
  rw [instrHostWrite_of_busy i S1 h]

/-- In an IDLE cycle a host write leaves HASH, or it is INIT or FIRST and loads IV (R801, R803). -/
theorem instrHostWrite_hash_of_idle (i : Instr) {S : Regs} (S1 : Regs) (h : S.phase = .idle) :
    (instrHostWrite i S S1).hash = S1.hash ∨
      (instrHostWrite i S S1).hash = iv ∧ (i.row = .cmdInit ∨ i.row = .cmdFirst) := by
  cases i with
  | cmdInit r => exact .inr ⟨by simp [instrHostWrite, testBusy_of_idle _ _ h], .inl rfl⟩
  | cmdFirst r => exact .inr ⟨by simp [instrHostWrite, testBusy_of_idle _ _ h], .inr rfl⟩
  | cmdNext r => exact .inl (by simp [instrHostWrite, testBusy_of_idle _ _ h])
  | wrStatus d => exact .inl (by simp only [instrHostWrite]; split <;> rfl)
  | _ => exact .inl rfl

/-- HASH after a cycle without reset that does not add: as before, or IV by an INIT or FIRST in IDLE. -/
theorem cycleRegs_hash_of_ne_final (txn : Option TWord) {S : Regs} (h : S.phase ≠ .final) :
    (cycleRegs false txn S).hash = S.hash ∨
      S.phase = .idle ∧ (cycleRegs false txn S).hash = iv ∧
        ∃ T, txn = some T ∧ ((decode T).row = .cmdInit ∨ (decode T).row = .cmdFirst) := by
  have hd := datapath_hash_of_ne_final h
  cases txn with
  | none => exact .inl hd
  | some T =>
    by_cases hi : S.phase = .idle
    · obtain hw | ⟨hiv, hrow⟩ := instrHostWrite_hash_of_idle (decode T) (datapath S) hi
      · exact .inl (hw.trans hd)
      · exact .inr ⟨hi, hiv, T, rfl, hrow⟩
    · exact .inl ((instrHostWrite_hash_of_busy (decode T) (datapath S) hi).trans hd)

/-- HASH after a FINAL cycle without reset is the final addition, whatever is presented (R712, R721). -/
theorem cycleRegs_hash_of_final (txn : Option TWord) {S : Regs} (h : S.phase = .final) :
    (cycleRegs false txn S).hash = addWork S.hash S.work := by
  have hd : (datapath S).hash = addWork S.hash S.work := by rw [datapath_of_final h, finalCycle_hash]
  cases txn with
  | none => exact hd
  | some T => exact (instrHostWrite_hash_of_busy (decode T) (datapath S) (by simp [h])).trans hd

/-- A transaction on the bus is presented by the host's next action (R201, R310). -/
theorem presents_some {s : State} {T : TWord} (h : s.presents = .ok (some T)) :
    ∃ op, s.hostOps.head? = some op ∧ op.presents = .ok (some T) := by
  obtain ⟨-, hn⟩ | ⟨op, rest, ho, hp⟩ := presents_cases h
  · cases hn
  · exact ⟨op, by rw [ho, List.head?_cons], hp⟩

end Sys2Proof.Machine

/-- Settles O42: the step is one cycle (`step_regs`); without reset the phase says whether the datapath adds, and
outside FINAL only an accepted INIT or FIRST reaches HASH. -/
theorem hashIsWrittenOnlyByItsWriters : Obligations.HashIsWrittenOnlyByItsWriters := by
  unfold Obligations.HashIsWrittenOnlyByItsWriters
  intro s t hstep
  obtain ⟨txn, hpresents, hregs, -⟩ := step_regs hstep
  cases hrst : s.rstNow with
  | true => exact .inl ⟨rfl, by rw [hregs, hrst]; rfl⟩
  | false =>
    rw [hrst] at hregs
    by_cases hfinal : s.regs.phase = .final
    · exact .inr (.inl ⟨rfl, hfinal, by rw [hregs, cycleRegs_hash_of_final txn hfinal]⟩)
    · obtain hsame | ⟨hidle, hiv, T, rfl, hrow⟩ := cycleRegs_hash_of_ne_final txn hfinal
      · exact .inr (.inr (.inr ⟨rfl, by rw [hregs, hsame]⟩))
      · obtain ⟨op, hop, hT⟩ := presents_some hpresents
        exact .inr (.inr (.inl ⟨rfl, hidle, by rw [hregs, hiv], op, T, hop, hT, hrow⟩))

/-- Settles O1: the arrays are all 0 word by word, HASH[0] differs from IV[0], and the other registers are read off
`Regs.reset`. -/
theorem resetValueOfEveryRegister : Obligations.ResetValueOfEveryRegister := by
  unfold Obligations.ResetValueOfEveryRegister
  have hashZero : ∀ i : Fin 8, State.reset.regs.hash[i] = 0 := fun i => Vector.getElem_replicate i.isLt
  have msgZero : ∀ i : Fin 16, State.reset.regs.msg[i] = 0 := fun i => Vector.getElem_replicate i.isLt
  have winZero : ∀ i : Fin 16, State.reset.regs.win[i] = 0 := fun i => Vector.getElem_replicate i.isLt
  have hashNotIv : State.reset.regs.hash ≠ iv := fun h =>
    absurd (congrArg (·[0]) h) (by decide : State.reset.regs.hash[0] ≠ iv[0])
  exact ⟨hashZero, rfl, msgZero, winZero, rfl, rfl, rfl, rfl, hashNotIv, rfl⟩

end

section
/-! PROOFS. The host's padding (40_host_padding.md): the loop of R400 appends the least number of zeros, the bytes of
BE64, the length of the padded message, and the length limit of `sha256Digest`. -/

open Sys2Proof Sys2Proof.Machine

namespace Sys2Proof.Machine

/-- With at least `z` turns, and `z` the first number of zeros that makes the length in bits 448 modulo 512, the loop
of R400 appends `z` zeros. -/
theorem padZeros_eq_append_replicate {fuel z : Nat} {P : List Byte} (hfuel : z ≤ fuel)
    (hstop : (8 * (P.length + z)) % 512 = 448) (hmin : ∀ y < z, (8 * (P.length + y)) % 512 ≠ 448) :
    padZeros fuel P = P ++ List.replicate z 0x00 := by
  induction fuel generalizing z P with
  | zero =>
    obtain rfl : z = 0 := by omega
    simp [padZeros]
  | succ fuel ih =>
    cases z with
    | zero => rw [padZeros, if_pos (by simpa using hstop), List.replicate_zero, List.append_nil]
    | succ z =>
      have hgoOn : (8 * P.length) % 512 ≠ 448 := hmin 0 (by omega)
      have hrest : padZeros fuel (P ++ [0x00]) = P ++ [0x00] ++ List.replicate z 0x00 := by
        apply ih (by omega)
        · simpa [Nat.add_assoc, Nat.add_comm 1] using hstop
        · intro y hy
          simpa [Nat.add_assoc, Nat.add_comm 1] using hmin (y + 1) (by omega)
      rw [padZeros, if_neg hgoOn, hrest, List.append_assoc, List.singleton_append, List.replicate_succ]

/-- The number of zero bytes between 0x80 and the length suffix of a message of `L` bytes: (55 - L) mod 64 (R401). -/
def padZeroCount (L : Nat) : Nat := (119 - L % 64) % 64

theorem padZeroCount_lt (L : Nat) : padZeroCount L < 64 := Nat.mod_lt _ (by decide)

/-- Up to 63 zeros, exactly `padZeroCount L` of them make the length in bits 448 modulo 512. -/
theorem padded_bits_eq_iff {L y : Nat} (hy : y < 64) : (8 * (L + 1 + y)) % 512 = 448 ↔ y = padZeroCount L := by
  unfold padZeroCount
  omega

theorem bits_of_padZeroCount (L : Nat) : (8 * (L + 1 + padZeroCount L)) % 512 = 448 :=
  (padded_bits_eq_iff (padZeroCount_lt L)).mpr rfl

theorem bits_ne_of_lt_padZeroCount {L y : Nat} (hy : y < padZeroCount L) : (8 * (L + 1 + y)) % 512 ≠ 448 :=
  fun h => hy.ne ((padded_bits_eq_iff (hy.trans (padZeroCount_lt L))).mp h)

theorem pad_eq (m : List Byte) :
    pad m = m ++ [0x80] ++ List.replicate (padZeroCount m.length) 0x00 ++ be64 (8 * m.length) := by
  have hlen : (m ++ [(0x80 : Byte)]).length = m.length + 1 := by simp
  rw [pad, padZeros_eq_append_replicate (padZeroCount_lt m.length).le]
  · rw [hlen]
    exact bits_of_padZeroCount m.length
  · rw [hlen]
    exact fun y hy => bits_ne_of_lt_padZeroCount hy

@[simp] theorem length_be64 (n : Nat) : (be64 n).length = 8 := by simp [be64]

theorem getD_be64 (n : Nat) {k : Nat} (hk : k < 8) : (be64 n).getD k 0 = BitVec.ofNat 8 (n >>> (56 - 8 * k)) := by
  simp [be64, hk]

theorem getLsbD_getD_be64 (n : Nat) {k b : Nat} (hk : k < 8) (hb : b < 8) :
    ((be64 n).getD k 0).getLsbD b = n.testBit (56 - 8 * k + b) := by
  rw [getD_be64 n hk, BitVec.getLsbD_ofNat, Nat.testBit_shiftRight, decide_eq_true hb, Bool.true_and]

theorem length_pad (m : List Byte) : (pad m).length = m.length + 1 + padZeroCount m.length + 8 := by
  simp only [pad_eq, List.length_append, List.length_singleton, List.length_replicate, length_be64]

theorem bits_pad_mod (m : List Byte) : (8 * (pad m).length) % 512 = 0 := by
  have hbits := bits_of_padZeroCount m.length
  rw [length_pad]
  omega

theorem sha256Digest_eq_none_iff (m : List Byte) : sha256Digest m = none ↔ 2 ^ 64 ≤ 8 * m.length := by
  rw [sha256Digest, ite_eq_right_iff, ← Nat.not_lt]
  simp

end Sys2Proof.Machine

/-- Settles O54: `padZeroCount` zeros are the least number that reaches 448 modulo 512, and the loop appends exactly
these (`pad_eq`). -/
theorem paddedMessageHasItsShape : Obligations.PaddedMessageHasItsShape := by
  unfold Obligations.PaddedMessageHasItsShape
  constructor
  · intro m
    exact ⟨padZeroCount m.length, pad_eq m, bits_of_padZeroCount m.length, fun y hy => bits_ne_of_lt_padZeroCount hy,
      bits_pad_mod m⟩
  · intro n
    exact ⟨length_be64 n, fun k hk b hb => getLsbD_getD_be64 n hk hb⟩

/-- Settles O57: `sha256Digest` refuses exactly at the limit, and 2^64 bits are 2^61 bytes. -/
theorem onlyTooLongMessagesGetNoDigest : Obligations.OnlyTooLongMessagesGetNoDigest := by
  unfold Obligations.OnlyTooLongMessagesGetNoDigest
  exact fun m => ⟨sha256Digest_eq_none_iff m, by omega⟩

end

section
/-! PROOFS of the logic functions (41_logic_functions.md): each word operation bit by bit, and the rules' corner
cases and examples. -/

open Sys2Proof Sys2Proof.Machine

namespace Sys2Proof.Machine

/-! ## Rotation and shift (R503, R504) -/

/-- Below 32 the rule's definition of ROTR is the rotation of `BitVec`. -/
theorem rotr_eq_rotateRight (x : Word) {n : Nat} (hn : n < 32) : rotr x n = x.rotateRight n := by
  rw [rotr, BitVec.rotateRight_def, Nat.mod_eq_of_lt hn]

theorem getLsbD_rotr (x : Word) {n i : Nat} (hn : n < 32) (hi : i < 32) :
    (rotr x n).getLsbD i = x.getLsbD ((i + n) % 32) := by
  rw [rotr_eq_rotateRight x hn, BitVec.getLsbD_rotateRight, Nat.mod_eq_of_lt hn]
  by_cases hwrap : i < 32 - n
  · have hsource : (i + n) % 32 = n + i := by omega
    rw [decide_eq_true hwrap, cond_true, hsource]
  · have hsource : (i + n) % 32 = i - (32 - n) := by omega
    rw [decide_eq_false hwrap, cond_false, decide_eq_true hi, Bool.true_and, hsource]

theorem rotr_zero (n : Nat) : rotr 0 n = 0 := by
  simp [rotr]

theorem rotr_allOnes {n : Nat} (hn : n < 32) : rotr (BitVec.allOnes 32) n = BitVec.allOnes 32 := by
  refine BitVec.eq_of_getLsbD_eq fun i hi => ?_
  have hsource : (i + n) % 32 < 32 := Nat.mod_lt _ (by decide)
  rw [getLsbD_rotr _ hn hi, BitVec.getLsbD_allOnes, BitVec.getLsbD_allOnes, decide_eq_true hsource, decide_eq_true hi]

theorem getLsbD_shr (x : Word) (n i : Nat) : (shr x n).getLsbD i = (decide (i + n ≤ 31) && x.getLsbD (i + n)) := by
  rw [shr, BitVec.getLsbD_ushiftRight, Nat.add_comm n i]
  by_cases hin : i + n ≤ 31
  · rw [decide_eq_true hin, Bool.true_and]
  · rw [decide_eq_false hin, Bool.false_and, BitVec.getLsbD_of_ge _ _ (by omega)]

/-- A shift moves the only bit of 1 out of the word (R504). -/
theorem shr_one {n : Nat} (hn : 0 < n) : shr 1 n = 0 := by
  apply BitVec.eq_of_toNat_eq
  rw [shr, BitVec.toNat_ushiftRight]
  exact Nat.shiftRight_eq_zero 1 n (Nat.one_lt_two_pow hn.ne')

/-! ## Choice and majority (R505, R506) -/

theorem getLsbD_ch (x y z : Word) {i : Nat} (hi : i < 32) :
    (ch x y z).getLsbD i = if x.getLsbD i then y.getLsbD i else z.getLsbD i := by
  simp only [ch, BitVec.getLsbD_xor, BitVec.getLsbD_and, BitVec.getLsbD_not, hi, decide_true, Bool.true_and]
  cases x.getLsbD i <;> simp

/-- The two terms of Ch are never 1 in the same bit, so `^` may be read as `|` (R505). -/
theorem ch_eq_or (x y z : Word) : ch x y z = (x &&& y) ||| (~~~x &&& z) := by
  refine BitVec.eq_of_getLsbD_eq fun i hi => ?_
  simp only [getLsbD_ch _ _ _ hi, BitVec.getLsbD_or, BitVec.getLsbD_and, BitVec.getLsbD_not, hi, decide_true,
    Bool.true_and]
  cases x.getLsbD i <;> simp

theorem ch_zero (y z : Word) : ch 0 y z = z :=
  BitVec.eq_of_getLsbD_eq fun i hi => by
    rw [getLsbD_ch _ _ _ hi]
    exact if_neg (by simp)

theorem ch_allOnes (y z : Word) : ch (BitVec.allOnes 32) y z = y :=
  BitVec.eq_of_getLsbD_eq fun i hi => by
    rw [getLsbD_ch _ _ _ hi, BitVec.getLsbD_allOnes, decide_eq_true hi, if_pos rfl]

theorem ch_self (x y : Word) : ch x y y = y :=
  BitVec.eq_of_getLsbD_eq fun i hi => by rw [getLsbD_ch _ _ _ hi, ite_self]

theorem getLsbD_maj (x y z : Word) (i : Nat) :
    (maj x y z).getLsbD i =
      decide (2 ≤ (x.getLsbD i).toNat + (y.getLsbD i).toNat + (z.getLsbD i).toNat) := by
  simp only [maj, BitVec.getLsbD_xor, BitVec.getLsbD_and]
  generalize x.getLsbD i = a, y.getLsbD i = b, z.getLsbD i = c
  decide +revert

/-- The three terms of Maj are 1 in one bit or in all three, so `^` may be read as `|` (R506). -/
theorem maj_eq_or (x y z : Word) : maj x y z = (x &&& y) ||| (x &&& z) ||| (y &&& z) := by
  refine BitVec.eq_of_getLsbD_eq fun i _ => ?_
  simp only [getLsbD_maj, BitVec.getLsbD_or, BitVec.getLsbD_and]
  generalize x.getLsbD i = a, y.getLsbD i = b, z.getLsbD i = c
  decide +revert

theorem maj_self (x z : Word) : maj x x z = x := by
  rw [maj, BitVec.and_self, BitVec.xor_assoc, BitVec.xor_self, BitVec.xor_zero]

theorem maj_comm (x y z : Word) : maj x y z = maj y x z :=
  BitVec.eq_of_getLsbD_eq fun i _ => by rw [getLsbD_maj, getLsbD_maj, Nat.add_comm (x.getLsbD i).toNat]

theorem maj_right_comm (x y z : Word) : maj x y z = maj x z y :=
  BitVec.eq_of_getLsbD_eq fun i _ => by rw [getLsbD_maj, getLsbD_maj, Nat.add_right_comm]

/-! ## The sigma functions (R507 to R510) -/

theorem getLsbD_bsig0 (x : Word) {i : Nat} (hi : i < 32) :
    (bsig0 x).getLsbD i =
      ((x.getLsbD ((i + 2) % 32) ^^ x.getLsbD ((i + 13) % 32)) ^^ x.getLsbD ((i + 22) % 32)) := by
  simp only [bsig0, BitVec.getLsbD_xor, getLsbD_rotr, hi, Nat.reduceLT]

theorem getLsbD_bsig1 (x : Word) {i : Nat} (hi : i < 32) :
    (bsig1 x).getLsbD i =
      ((x.getLsbD ((i + 6) % 32) ^^ x.getLsbD ((i + 11) % 32)) ^^ x.getLsbD ((i + 25) % 32)) := by
  simp only [bsig1, BitVec.getLsbD_xor, getLsbD_rotr, hi, Nat.reduceLT]

theorem getLsbD_ssig0 (x : Word) {i : Nat} (hi : i < 32) :
    (ssig0 x).getLsbD i =
      ((x.getLsbD ((i + 7) % 32) ^^ x.getLsbD ((i + 18) % 32)) ^^ (decide (i + 3 ≤ 31) && x.getLsbD (i + 3))) := by
  simp only [ssig0, BitVec.getLsbD_xor, getLsbD_rotr, getLsbD_shr, hi, Nat.reduceLT]

theorem getLsbD_ssig1 (x : Word) {i : Nat} (hi : i < 32) :
    (ssig1 x).getLsbD i =
      ((x.getLsbD ((i + 17) % 32) ^^ x.getLsbD ((i + 19) % 32)) ^^ (decide (i + 10 ≤ 31) && x.getLsbD (i + 10))) := by
  simp only [ssig1, BitVec.getLsbD_xor, getLsbD_rotr, getLsbD_shr, hi, Nat.reduceLT]

end Sys2Proof.Machine

/-- Settles O17: below 32 ROTR is the library's rotation, whose bits are known; 0 and all ones follow bit by bit. -/
theorem rotateRightMovesEveryBit : Obligations.RotateRightMovesEveryBit := by
  unfold Obligations.RotateRightMovesEveryBit
  constructor
  · intro x n _ hn
    exact ⟨rfl, fun i hi => getLsbD_rotr x hn hi, rotr_zero n, rotr_allOnes hn⟩
  · decide

/-- Settles O18: the bits of a shifted word (`getLsbD_shr`), from which a shifted 1 is 0. -/
theorem shiftRightFillsWithZeros : Obligations.ShiftRightFillsWithZeros := by
  unfold Obligations.ShiftRightFillsWithZeros
  constructor
  · intro x n hpos _
    refine ⟨rfl, fun i _ => ?_, shr_one hpos⟩
    rw [getLsbD_shr, Bool.if_false_right]
  · decide

/-- Settles O19: each bit of x chooses (`getLsbD_ch`), and the corner cases are the choice of a constant x or between
equal words. -/
theorem choiceTakesYWhereXIsOne : Obligations.ChoiceTakesYWhereXIsOne := by
  unfold Obligations.ChoiceTakesYWhereXIsOne
  constructor
  · intro x y z
    exact ⟨rfl, ch_eq_or x y z, fun i hi => getLsbD_ch x y z hi, ch_zero y z, ch_allOnes y z, ch_self x y⟩
  · decide

/-- Settles O20: each bit counts the three operand bits (`getLsbD_maj`), so the operands' order does not matter; the
corner cases follow from `maj_self`. -/
theorem majorityTakesTwoOfThree : Obligations.MajorityTakesTwoOfThree := by
  unfold Obligations.MajorityTakesTwoOfThree
  constructor
  · intro x y z
    exact ⟨rfl, maj_eq_or x y z, fun i _ => getLsbD_maj x y z i, maj_self x z, maj_self 0 z, maj_self 0xFFFFFFFF z,
      maj_comm x y z, maj_right_comm x y z⟩
  · decide

/-- Settles O21: the bits of the rotations and shifts (`getLsbD_rotr`, `getLsbD_shr`), XORed; the corner cases and
examples are closed words. -/
theorem sigmaFunctionsMixTheirBits : Obligations.SigmaFunctionsMixTheirBits := by
  unfold Obligations.SigmaFunctionsMixTheirBits
  constructor
  · intro x i hi
    exact ⟨getLsbD_bsig0 x hi, getLsbD_bsig1 x hi, getLsbD_ssig0 x hi, getLsbD_ssig1 x hi⟩
  · decide

end

section
/-! PROOFS of the message scheduler's family (42_message_scheduler.md): the schedule is the block's words and then the
recurrence. -/

open Sys2Proof Sys2Proof.Machine

namespace Sys2Proof.Machine

/-- The first 16 words of the schedule are the block's (R604). -/
theorem schedule_of_lt (M : Vector Word 16) {t : Nat} (h : t < 16) : schedule M t = M[t] := by
  rw [schedule_eq_getD M 0 t h, scheduleWords, List.getD_eq_getElem _ _ (by simpa using h), Vector.getElem_toList]

/-- The word appended to the first `16 + n` is the recurrence of R604 over the schedule, at offsets from `n` as in
`wnext`. -/
theorem scheduleNext_scheduleWords (M : Vector Word 16) (n : Nat) :
    scheduleNext (scheduleWords M n) =
      ssig1 (schedule M (n + 14)) + schedule M (n + 9) + ssig0 (schedule M (n + 1)) + schedule M n := by
  have back (m j : Nat) (hj : 0 < j) (h : m + j = 16 + n) : (scheduleWords M n).getD (16 + n - j) 0 = schedule M m := by
    rw [schedule_eq_getD M n m (by omega), ← h, Nat.add_sub_cancel]
  rw [scheduleNext, scheduleWords_length]
  simp only [back (n + 14) 2 (by decide) (by omega), back (n + 9) 7 (by decide) (by omega),
    back (n + 1) 15 (by decide) (by omega), back n 16 (by decide) (by omega)]

/-- The recurrence of R604 with its index counted from 16, so that no subtraction is left. -/
theorem schedule_add_sixteen (M : Vector Word 16) (n : Nat) :
    schedule M (n + 16) =
      ssig1 (schedule M (n + 14)) + schedule M (n + 9) + ssig0 (schedule M (n + 1)) + schedule M n := by
  have hlen : n + 16 = (scheduleWords M n).length := by rw [scheduleWords_length, Nat.add_comm]
  rw [schedule_eq_getD M (n + 1) (n + 16) (by omega), scheduleWords, hlen, List.getD_append_right _ _ _ _ le_rfl,
    Nat.sub_self, List.getD_cons_zero, scheduleNext_scheduleWords]

end Sys2Proof.Machine

/-- Settles O24: the list of words starts as the block (`schedule_of_lt`) and each word appended to it is the
recurrence over the words before it (`schedule_add_sixteen`, at t = n + 16). -/
theorem scheduleFollowsTheRecurrence : Obligations.ScheduleFollowsTheRecurrence := by
  unfold Obligations.ScheduleFollowsTheRecurrence
  intro M
  constructor
  · exact fun t h => schedule_of_lt M h
  · intro t ht
    obtain ⟨n, rfl⟩ := Nat.exists_eq_add_of_le' ht
    exact schedule_add_sixteen M n

end

section
/-! PROOFS of the round datapath's family (43_round_datapath.md): a ROUND cycle and a FINAL cycle, register by
register. -/

open Sys2Proof Sys2Proof.Machine

namespace Sys2Proof.Machine

/-- WIN after a shift, word by word: the words move down by one and the new word comes in at index 15 (R602). -/
theorem shiftWindow_eq_ofFn (win : Vector Word 16) :
    shiftWindow win = Vector.ofFn fun i : Fin 16 =>
      if h : i.val < 15 then win[i.val + 1] else ssig1 win[14] + win[9] + ssig0 win[1] + win[0] := rfl

end Sys2Proof.Machine

/-- Settles O26: in ROUND the datapath is `roundCycle`, whose window is the shifted one and whose working variables are
those of the round function at K[t] and WIN[0]. -/
theorem roundCyclePerformsOneRound : Obligations.RoundCyclePerformsOneRound := by
  unfold Obligations.RoundCyclePerformsOneRound
  intro S hround
  rw [datapath_of_round hround, roundCycle, shiftWindow_eq_ofFn]
  rfl

/-- Settles O27: in FINAL the datapath is `finalCycle`, which writes HASH with the eight sums, VALID and phase only. -/
theorem finalCycleAddsIntoHash : Obligations.FinalCycleAddsIntoHash := by
  unfold Obligations.FinalCycleAddsIntoHash
  intro S hfinal
  rw [datapath_of_final hfinal]
  rfl

end

section
/-! PROOFS of the commands' family (44_commands.md): what a CTRL write decodes to, and the cycle each command makes. -/

open Sys2Proof Sys2Proof.Machine

namespace Sys2Proof.Machine

/-- A write of the command word `{r, op}` to CTRL, index 0x02, is read by the rows of R304 (R301, R909). -/
theorem decode_ctrlWrite (op : BitVec 4) (r : BitVec 28) :
    decode (TWord.make true 0x02 (r ++ op)) = decodeCommand (commandWord op r) := by
  rw [decode_write, decodeWrite_ctrl, commandWord]

/-- Every instruction is one clock cycle, in the terms of the statements. -/
theorem exec_eq_cycled (i : Instr) (s : State) :
    exec i s = .next (s.cycled (instrReadData s.regs i) (instrHostWrite i s.regs (datapath s.regs))) := by
  rw [exec_eq_clock, clock_eq_cycled]

/-- A write whose effect on the registers after the datapath's part is `ERR <- 1` leaves what an idle cycle leaves, with
ERR set (R808). -/
theorem exec_of_setErr {i : Instr} {s : State} (hread : instrReadData s.regs i = 0)
    (hwrite : instrHostWrite i s.regs (datapath s.regs) = (datapath s.regs).setErr) :
    exec i s = .next (s.cycled 0 { datapath s.regs with err := true }) := by
  rw [exec_eq_cycled, hread, hwrite, Regs.setErr]

end Sys2Proof.Machine

/-- Settles O28: opcode 0 decodes to NOP, whose cycle has no host write and read data 0. -/
theorem nopOnlyLetsTheDatapathRun : Obligations.NopOnlyLetsTheDatapathRun := by
  unfold Obligations.NopOnlyLetsTheDatapathRun
  intro r s
  constructor
  · exact (decode_ctrlWrite 0x0 r).trans (decodeCommand_nop r)
  · exact exec_eq_cycled (.cmdNop r) s

/-- Settles O29: INIT is the busy test before `loadIv`; when idle the datapath's part leaves the registers, so IV is
loaded into the current ones. -/
theorem initLoadsIvOrIsRejected : Obligations.InitLoadsIvOrIsRejected := by
  unfold Obligations.InitLoadsIvOrIsRejected
  intro r s
  refine ⟨?_, fun hidle => ?_, fun hbusy => ?_⟩
  · exact (decode_ctrlWrite 0x1 r).trans (decodeCommand_init r)
  · have hwrite : instrHostWrite (.cmdInit r) s.regs (datapath s.regs) = loadIv s.regs := by
      rw [datapath_of_idle hidle]
      exact testBusy_of_idle loadIv s.regs hidle
    rw [exec_eq_cycled, hwrite]
    rfl
  · exact exec_of_setErr rfl (testBusy_of_busy _ _ hbusy)

/-- Settles O32: opcodes 4 to 7 and 8 to 15 are the two reserved rows, and the host write of both is `ERR <- 1` with no
busy test. -/
theorem reservedCommandSetsErr : Obligations.ReservedCommandSetsErr := by
  unfold Obligations.ReservedCommandSetsErr
  intro op r s
  refine ⟨fun hlow hhigh => ?_, fun hlow => ?_, exec_of_setErr rfl rfl, exec_of_setErr rfl rfl⟩
  · rw [decode_ctrlWrite, decodeCommand_rsvd4 ((inRange_iff _ _ _).mpr ⟨hlow, hhigh⟩)]
  · have hhigh : op.toNat ≤ 0xF := Nat.le_of_lt_succ op.isLt
    rw [decode_ctrlWrite, decodeCommand_rsvd8 ((inRange_iff _ _ _).mpr ⟨hlow, hhigh⟩)]

end

section
/-! PROOFS of the register accesses' family (45_register_access.md): the command word's dispatch, what each read
answers, and what each write leaves. -/

open Sys2Proof Sys2Proof.Machine

namespace Sys2Proof

/-! ## Dispatch on C[3:0] (R909) -/

/-- C[3:0] as a word: masking a command word clears its reserved bits (R301). -/
theorem and_fifteen_eq_commandWord (C : Word) : C &&& 0xF = commandWord (commandOp C) 0 := by
  have hmask : (0xF : Word) = commandWord (BitVec.allOnes 4) 0 := by decide
  calc C &&& 0xF
    _ = commandWord (commandOp C) (commandReserved C) &&& commandWord (BitVec.allOnes 4) 0 := by
      rw [commandWord_fields, hmask]
    _ = commandWord (commandOp C) 0 := by rw [commandWord_and, BitVec.and_allOnes]; simp

theorem commandOp_eq_of_and {C : Word} {op : BitVec 4} (h : C &&& 0xF = commandWord op 0) : commandOp C = op :=
  ((commandWord_inj _ _ _ _).mp ((and_fifteen_eq_commandWord C).symm.trans h)).1

theorem toNat_and_fifteen (C : Word) : (C &&& 0xF).toNat = (commandOp C).toNat := by
  have hzext : ∀ op : BitVec 4, (commandWord op 0).toNat = op.toNat := by decide
  rw [and_fifteen_eq_commandWord, hzext]

/-- A CTRL write is read by the rows of R304 at its two fields. -/
theorem decode_ctrlWrite_fields (C : Word) :
    decode (TWord.make true 0x02 C) = decodeCommand (commandWord (commandOp C) (commandReserved C)) := by
  rw [decode_write, decodeWrite_ctrl, commandWord_fields]

/-- The opcodes from 4 on are the reserved commands (R804). -/
theorem decodeCommand_isReservedCommand {op : BitVec 4} (h : 0x4 ≤ op.toNat) (r : BitVec 28) :
    (decodeCommand (commandWord op r)).isReservedCommand := by
  obtain hlow | hlow := Nat.lt_or_ge op.toNat 0x8
  · rw [decodeCommand_rsvd4 ((inRange_iff _ _ _).mpr ⟨h, Nat.le_of_lt_succ hlow⟩)]
    exact .inl rfl
  · rw [decodeCommand_rsvd8 ((inRange_iff _ _ _).mpr ⟨hlow, Nat.le_of_lt_succ op.isLt⟩)]
    exact .inr rfl

/-- No command acts on its reserved bits (R301, R909). -/
theorem exec_decodeCommand_reserved (op : BitVec 4) (r r' : BitVec 28) (s : State) :
    exec (decodeCommand (commandWord op r)) s = exec (decodeCommand (commandWord op r')) s := by
  obtain rfl | rfl | rfl | rfl | h | h := op_cases op
  · rw [decodeCommand_nop, decodeCommand_nop]; rfl
  · rw [decodeCommand_init, decodeCommand_init]; rfl
  · rw [decodeCommand_next, decodeCommand_next]; rfl
  · rw [decodeCommand_first, decodeCommand_first]; rfl
  · rw [decodeCommand_rsvd4 h, decodeCommand_rsvd4 h]; rfl
  · rw [decodeCommand_rsvd8 h, decodeCommand_rsvd8 h]; rfl

end Sys2Proof

namespace Sys2Proof.Machine

/-! ## What a read answers and what a write leaves -/

/-- A read, or an ignored write, leaves the registers an idle cycle leaves (R209, R913, R914). -/
theorem exec_of_writeNothing {i : Instr} {s : State} {v : Word} (hread : instrReadData s.regs i = v)
    (hwrite : instrHostWrite i = writeNothing) : exec i s = .next (s.cycled v (datapath s.regs)) := by
  rw [exec_eq_cycled, hread, hwrite, writeNothing_apply]

/-- The registers an instruction leaves. -/
theorem regs_of_exec {i : Instr} {s t : State} (h : exec i s = .next t) :
    t.regs = instrHostWrite i s.regs (datapath s.regs) := by
  cases (exec_eq_clock i s).symm.trans h
  rfl

/-- STATUS is built from ERR down, one flag after the other below zeros (R903). -/
theorem statusWord_eq_concat (S : Regs) :
    S.statusWord = (((0 : BitVec 29).concat S.err).concat S.valid).concat S.busy := rfl

/-- The bits of STATUS (R903). -/
theorem getLsbD_statusWord (S : Regs) (k : Nat) :
    S.statusWord.getLsbD k = [S.busy, S.valid, S.err].getD k false := by
  rw [statusWord_eq_concat]
  obtain _ | _ | _ | k := k
  · exact BitVec.getLsbD_concat_zero
  · exact BitVec.getLsbD_concat_succ.trans BitVec.getLsbD_concat_zero
  · exact BitVec.getLsbD_concat_succ.trans (BitVec.getLsbD_concat_succ.trans BitVec.getLsbD_concat_zero)
  · exact BitVec.getLsbD_concat_succ.trans
      (BitVec.getLsbD_concat_succ.trans (BitVec.getLsbD_concat_succ.trans BitVec.getLsbD_zero))

/-- The MSG words after `MSG[i] <- v` (R911). -/
theorem getElem_setMsgWord_msg (S : Regs) (i j : BitVec 4) (v : Word) :
    (S.setMsgWord i v).msg[j.toNat] = if j = i then v else S.msg[j.toNat] := by
  by_cases h : j = i
  · subst h
    rw [if_pos rfl]
    exact Vector.getElem_set_self j.isLt
  · have hne : i.toNat ≠ j.toNat := fun e => h (BitVec.eq_of_toNat_eq e.symm)
    rw [if_neg h]
    exact Vector.getElem_set_ne i.isLt j.isLt hne

/-- A STATUS write is a write to ERR alone, which bit 2 of the word clears (R910). -/
theorem wrStatus_write (d : Word) (S S1 : Regs) :
    instrHostWrite (.wrStatus d) S S1 = { S1 with err := if d.getLsbD 2 then false else S1.err } := by
  by_cases hclear : d.getLsbD 2 = true
  · rw [if_pos hclear]
    exact if_pos hclear
  · rw [if_neg hclear]
    exact if_neg hclear

/-- An accepted INIT leaves IV in HASH (R801). -/
theorem hash_of_exec_init {r : BitVec 28} {s t : State} (hidle : s.regs.phase = .idle)
    (h : exec (.cmdInit r) s = .next t) : t.regs.hash = iv := by
  rw [regs_of_exec h]
  exact congrArg Regs.hash (testBusy_of_idle loadIv (datapath s.regs) hidle)

/-- No transaction presented in a ROUND cycle changes HASH (R101, R721). -/
theorem hash_of_exec_in_round {j : Instr} {s t : State} (hround : s.regs.phase = .round) (h : exec j s = .next t) :
    t.regs.hash = s.regs.hash := by
  rw [regs_of_exec h, instrHostWrite_hash_of_busy j _ (by simp [hround]),
    datapath_hash_of_ne_final (by simp [hround])]

end Sys2Proof.Machine

/-- Settles O15: masking C with 0xF gives its opcode (`and_fifteen_eq_commandWord`), by which the rows of R304 are
read; no meaning uses the reserved bits. -/
theorem ctrlWriteIsDispatchedOnTheOpcode : Obligations.CtrlWriteIsDispatchedOnTheOpcode := by
  unfold Obligations.CtrlWriteIsDispatchedOnTheOpcode
  intro C
  refine ⟨commandReserved C, fun h => ?_, fun h => ?_, fun h => ?_, fun h => ?_, fun h => ?_, fun C' s h => ?_⟩
  · rw [decode_ctrlWrite_fields, commandOp_eq_of_and (op := 0x0) h, decodeCommand_nop]
  · rw [decode_ctrlWrite_fields, commandOp_eq_of_and (op := 0x1) h, decodeCommand_init]
  · rw [decode_ctrlWrite_fields, commandOp_eq_of_and (op := 0x2) h, decodeCommand_next]
  · rw [decode_ctrlWrite_fields, commandOp_eq_of_and (op := 0x3) h, decodeCommand_first]
  · rw [toNat_and_fifteen] at h
    rw [decode_ctrlWrite_fields]
    exact decodeCommand_isReservedCommand h _
  · rw [decode_ctrlWrite_fields, decode_ctrlWrite_fields C',
      commandOp_eq_of_and (h.trans (and_fifteen_eq_commandWord C'))]
    exact exec_decodeCommand_reserved _ _ _ s

/-- Settles O35: the word read is `statusWord`, whose bits are the three flags (`getLsbD_statusWord`), all 0 in the
registers of reset. -/
theorem statusReadShowsTheThreeFlags : Obligations.StatusReadShowsTheThreeFlags := by
  unfold Obligations.StatusReadShowsTheThreeFlags
  intro x s
  have hbits := getLsbD_statusWord s.regs
  refine ⟨(decode_read _ x).trans (decodeRead_status x), s.regs.statusWord, exec_of_writeNothing rfl rfl,
    (hbits 0).trans (busy_eq_decide _), hbits 1, hbits 2, fun i hi => ?_, fun hreset => ?_⟩
  · rw [hbits]
    exact List.getD_eq_default _ _ hi
  · rw [hreset]
    decide

/-- Settles O36: the write sets one word of MSG, which the datapath leaves alone (`datapath_msg`), and the read shows
the word set. -/
theorem msgWordReadsBackWhatWasWritten : Obligations.MsgWordReadsBackWhatWasWritten := by
  unfold Obligations.MsgWordReadsBackWhatWasWritten
  intro i x d s
  have hword (j : BitVec 4) :
      ((datapath s.regs).setMsgWord i d).msg[j.toNat] = if j = i then d else s.regs.msg[j.toNat] := by
    rw [getElem_setMsgWord_msg]
    simp only [datapath_msg]
  refine ⟨?_, ?_, exec_of_writeNothing rfl rfl, fun hreset => exec_of_writeNothing ?_ rfl,
    s.cycled 0 ((datapath s.regs).setMsgWord i d), exec_eq_cycled _ s, rfl, hword, exec_of_writeNothing ?_ rfl⟩
  · rw [← msgAddr_eq, decode_read, decodeRead_msg]
  · rw [← msgAddr_eq, decode_write, decodeWrite_msg]
  · rw [hreset]
    exact Vector.getElem_replicate i.isLt
  · exact (hword i).trans (if_pos rfl)

/-- Settles O37: the read shows the HASH of its own state, which is IV after an accepted INIT (`hash_of_exec_init`) and
the earlier HASH after a ROUND cycle (`hash_of_exec_in_round`). -/
theorem digestReadReturnsHash : Obligations.DigestReadReturnsHash := by
  unfold Obligations.DigestReadReturnsHash
  intro i x s
  have hread {t : State} {H : Vector Word 8} (h : t.regs.hash = H) :
      exec (.rdDigest i x) t = .next (t.cycled H[i.toNat] (datapath t.regs)) := by
    subst h
    exact exec_of_writeNothing rfl rfl
  refine ⟨?_, hread rfl, fun hreset => exec_of_writeNothing ?_ rfl,
    fun r t hidle h => hread (hash_of_exec_init hidle h), fun j t hround h => hread (hash_of_exec_in_round hround h)⟩
  · rw [← digestAddr_eq, decode_read, decodeRead_digest]
  · rw [hreset]
    exact Vector.getElem_replicate i.isLt

/-- Settles O34: each index decodes to its row, and each of these reads answers a constant and writes nothing. -/
theorem constantReadsAnswerTheirConstant : Obligations.ConstantReadsAnswerTheirConstant := by
  unfold Obligations.ConstantReadsAnswerTheirConstant
  intro x addr s
  refine ⟨⟨?_, exec_of_writeNothing rfl rfl⟩, ⟨?_, exec_of_writeNothing rfl rfl⟩, ⟨?_, exec_of_writeNothing rfl rfl⟩,
    ⟨fun hlo hhi => ?_, exec_of_writeNothing rfl rfl⟩, ⟨fun hlo hhi => ?_, exec_of_writeNothing rfl rfl⟩,
    ⟨fun hlo hhi => ?_, exec_of_writeNothing rfl rfl⟩, ⟨fun hlo hhi => ?_, exec_of_writeNothing rfl rfl⟩⟩
  · rw [decode_read, decodeRead_id]
  · rw [decode_read, decodeRead_version]
  · rw [decode_read, decodeRead_ctrl]
  · rw [decode_read, decodeRead_rsvd04 ((inRange_iff _ _ _).mpr ⟨hlo, hhi⟩)]
  · rw [decode_read, decodeRead_rsvd08 ((inRange_iff _ _ _).mpr ⟨hlo, hhi⟩)]
  · rw [decode_read, decodeRead_rsvd28 ((inRange_iff _ _ _).mpr ⟨hlo, hhi⟩)]
  · rw [decode_read, decodeRead_rsvd30 ((inRange_iff _ _ _).mpr ⟨hlo, hhi⟩)]

/-- Settles O38: a STATUS write writes ERR alone (`wrStatus_write`), which the datapath leaves alone. -/
theorem statusWriteClearsErrByBitTwo : Obligations.StatusWriteClearsErrByBitTwo := by
  unfold Obligations.StatusWriteClearsErrByBitTwo
  intro d s
  constructor
  · rw [decode_write, decodeWrite_status]
  · rw [exec_eq_cycled, wrStatus_write, datapath_err]
    rfl

/-- Settles O39: each index decodes to its row, and each of these writes writes nothing. -/
theorem readOnlyAndReservedWritesAreIgnored : Obligations.ReadOnlyAndReservedWritesAreIgnored := by
  unfold Obligations.ReadOnlyAndReservedWritesAreIgnored
  intro d i addr s
  refine ⟨⟨?_, exec_of_writeNothing rfl rfl⟩, ⟨?_, exec_of_writeNothing rfl rfl⟩, ⟨?_, exec_of_writeNothing rfl rfl⟩,
    ⟨fun hlo hhi => ?_, exec_of_writeNothing rfl rfl⟩, ⟨fun hlo hhi => ?_, exec_of_writeNothing rfl rfl⟩,
    ⟨fun hlo hhi => ?_, exec_of_writeNothing rfl rfl⟩, ⟨fun hlo hhi => ?_, exec_of_writeNothing rfl rfl⟩⟩
  · rw [decode_write, decodeWrite_id]
  · rw [decode_write, decodeWrite_version]
  · rw [← digestAddr_eq, decode_write, decodeWrite_digest]
  · rw [decode_write, decodeWrite_rsvd04 ((inRange_iff _ _ _).mpr ⟨hlo, hhi⟩)]
  · rw [decode_write, decodeWrite_rsvd08 ((inRange_iff _ _ _).mpr ⟨hlo, hhi⟩)]
  · rw [decode_write, decodeWrite_rsvd28 ((inRange_iff _ _ _).mpr ⟨hlo, hhi⟩)]
  · rw [decode_write, decodeWrite_rsvd30 ((inRange_iff _ _ _).mpr ⟨hlo, hhi⟩)]

end

section
/-! PROOFS of the digest output's family (46_digest_output.md): the bytes of the Digest and the characters of the
HexString, each a list of chunks of one length. -/

open Sys2Proof Sys2Proof.Machine

namespace Sys2Proof.Machine

/-! ## Lists of chunks of one length -/

theorem length_flatMap_of_chunks {α β : Type} {f : α → List β} {n : Nat} (hf : ∀ x, (f x).length = n) (l : List α) :
    (l.flatMap f).length = n * l.length := by
  simp [List.length_flatMap, hf, Nat.mul_comm]

/-- Element `n * i + j` of the chunks put one after the other is element `j` of chunk `i`. -/
theorem getElem?_flatMap_of_chunks {α β : Type} {f : α → List β} {n : Nat} (hf : ∀ x, (f x).length = n)
    {l : List α} {i j : Nat} (hi : i < l.length) (hj : j < n) : (l.flatMap f)[n * i + j]? = (f l[i])[j]? := by
  induction l generalizing i with
  | nil => exact absurd hi (Nat.not_lt_zero i)
  | cons x xs ih =>
    rw [List.flatMap_cons]
    cases i with
    | zero => rw [Nat.mul_zero, Nat.zero_add, List.getElem?_append_left (by rwa [hf]), List.getElem_cons_zero]
    | succ i =>
      have hpast : n * (i + 1) + j = (f x).length + (n * i + j) := by rw [hf, Nat.mul_succ]; omega
      rw [hpast, List.getElem?_append_right (Nat.le_add_right _ _), Nat.add_sub_cancel_left,
        ih (Nat.lt_of_succ_lt_succ hi), List.getElem_cons_succ]

/-! ## The bytes of the Digest (R1000, R1001) -/

@[simp] theorem length_wordBytes (w : Word) : (wordBytes w).length = 4 := rfl

/-- Byte `j` of a word, counted from the most significant one. -/
theorem getElem?_wordBytes (w : Word) {j : Nat} (hj : j < 4) :
    (wordBytes w)[j]? = some (w.extractLsb' (24 - 8 * j) 8) := by
  interval_cases j <;> rfl

@[simp] theorem length_digestBytes (H : Vector Word 8) : (digestBytes H).length = 32 := by
  rw [digestBytes, length_flatMap_of_chunks length_wordBytes, Vector.length_toList]

theorem getD_digestBytes (H : Vector Word 8) (i : Fin 8) {j : Nat} (hj : j < 4) :
    (digestBytes H).getD (4 * i + j) 0 = H[i].extractLsb' (24 - 8 * j) 8 := by
  have hi : i.val < H.toList.length := by simp
  have hbyte : (digestBytes H)[4 * i.val + j]? = some (H[i].extractLsb' (24 - 8 * j) 8) := by
    rw [digestBytes, getElem?_flatMap_of_chunks length_wordBytes hi hj, Vector.getElem_toList, getElem?_wordBytes _ hj,
      Fin.getElem_fin]
  rw [List.getD_eq_getElem?_getD, hbyte, Option.getD_some]

/-- A digest, where a message has one, is the bytes of eight words (R1002). -/
theorem sha256Digest_eq_some {m d : List Byte} (h : sha256Digest m = some d) :
    d = digestBytes (hashBlocks (blocksOf m)) := by
  rw [sha256Digest, Option.ite_none_right_eq_some] at h
  obtain ⟨-, hd⟩ := h
  exact (Option.some.inj hd).symm

/-! ## The characters of the HexString (R1003) -/

/-- The two characters of a byte, high nibble first: the chunk of `hexRender`. -/
def hexPair (b : Byte) : List Char := [hexDigit (b.extractLsb' 4 4), hexDigit (b.extractLsb' 0 4)]

theorem hexRender_eq_flatMap (bytes : List Byte) : hexRender bytes = bytes.flatMap hexPair := rfl

@[simp] theorem length_hexPair (b : Byte) : (hexPair b).length = 2 := rfl

/-- The digit of a nibble stands at the nibble's place in the alphabet. -/
theorem getElem?_alphabet (n : BitVec 4) : "0123456789abcdef".toList[n.toNat]? = some (hexDigit n) := by
  have halphabet : "0123456789abcdef".toList = hexDigits := by decide
  have hlt : n.toNat < hexDigits.length := n.isLt
  rw [halphabet, hexDigit, List.getD_eq_getElem _ _ hlt, List.getElem?_eq_getElem hlt]

theorem hexDigit_isLowercase : ∀ n : BitVec 4,
    ('0' ≤ hexDigit n ∧ hexDigit n ≤ '9') ∨ ('a' ≤ hexDigit n ∧ hexDigit n ≤ 'f') := by decide

@[simp] theorem toNat_highNibble (b : Byte) : (b.extractLsb' 4 4).toNat = b.toNat / 16 := by
  rw [BitVec.extractLsb'_toNat, Nat.shiftRight_eq_div_pow]
  omega

@[simp] theorem toNat_lowNibble (b : Byte) : (b.extractLsb' 0 4).toNat = b.toNat % 16 := by
  rw [BitVec.extractLsb'_toNat, Nat.shiftRight_zero]

theorem length_hexRender (bytes : List Byte) : (hexRender bytes).length = 2 * bytes.length :=
  length_flatMap_of_chunks length_hexPair bytes

theorem exists_hexDigit_of_mem_hexRender {bytes : List Byte} {c : Char} (h : c ∈ hexRender bytes) :
    ∃ n, c = hexDigit n := by
  rw [hexRender_eq_flatMap, List.mem_flatMap] at h
  obtain ⟨b, -, hc⟩ := h
  rw [hexPair, List.mem_pair] at hc
  exact hc.elim (⟨_, ·⟩) (⟨_, ·⟩)

theorem getElem?_hexRender_high {bytes : List Byte} {i : Nat} (hi : i < bytes.length) :
    (hexRender bytes)[2 * i]? = "0123456789abcdef".toList[(bytes.getD i 0).toNat / 16]? := by
  rw [List.getD_eq_getElem _ _ hi, ← toNat_highNibble, getElem?_alphabet]
  exact getElem?_flatMap_of_chunks length_hexPair hi (by decide : 0 < 2)

theorem getElem?_hexRender_low {bytes : List Byte} {i : Nat} (hi : i < bytes.length) :
    (hexRender bytes)[2 * i + 1]? = "0123456789abcdef".toList[(bytes.getD i 0).toNat % 16]? := by
  rw [List.getD_eq_getElem _ _ hi, ← toNat_lowNibble, getElem?_alphabet]
  exact getElem?_flatMap_of_chunks length_hexPair hi (by decide : 1 < 2)

end Sys2Proof.Machine

/-- Settles O58: the Digest is eight chunks of four bytes, so byte 4i+j is byte j of word i (`getD_digestBytes`). -/
theorem digestBytesAreBigEndian : Obligations.DigestBytesAreBigEndian := by
  unfold Obligations.DigestBytesAreBigEndian
  constructor
  · intro H
    refine ⟨length_digestBytes H, fun i j b hj hb => ?_⟩
    rw [getD_digestBytes H i hj, BitVec.getLsbD_extractLsb', decide_eq_true hb, Bool.true_and]
  · intro m d h
    rw [sha256Digest_eq_some h, length_digestBytes]

/-- Settles O59: the HexString is one chunk of two digits a byte, and the digit of a nibble stands at the nibble's place
in the alphabet (`getElem?_alphabet`). -/
theorem hexStringIsLowercaseHighNibbleFirst : Obligations.HexStringIsLowercaseHighNibbleFirst := by
  unfold Obligations.HexStringIsLowercaseHighNibbleFirst
  intro bytes
  refine ⟨length_hexRender bytes, fun h32 => ?_, fun c hc => ?_, fun i hi => ?_⟩
  · rw [length_hexRender, h32]
  · obtain ⟨n, rfl⟩ := exists_hexDigit_of_mem_hexRender hc
    exact hexDigit_isLowercase n
  · exact ⟨getElem?_hexRender_high hi, getElem?_hexRender_low hi⟩

end

section
/-! PROOFS of the family of reset and hazards (70_reset_and_hazards.md): a cycle with `rst = 1`. -/

open Sys2Proof Sys2Proof.Machine

namespace Sys2Proof.Machine

/-- Reset overrides the datapath and the presented transaction (R1105, R1200). -/
@[simp] theorem cycleRegs_of_reset (txn : Option TWord) (S : Regs) : cycleRegs true txn S = Regs.reset := rfl

end Sys2Proof.Machine

/-- Settles O2: a step whose action is on the bus answers a next state (`step_of_onBus`), whose registers are those of
the cycle (`step_regs`), and a cycle with `rst = 1` leaves the reset registers. -/
theorem resetCycleLeavesTheResetState : Obligations.ResetCycleLeavesTheResetState := by
  unfold Obligations.ResetCycleLeavesTheResetState
  intro s hrst hbus
  obtain ⟨t, hstep⟩ := step_of_onBus hbus
  obtain ⟨txn, -, hregs, -⟩ := step_regs hstep
  refine ⟨t, hstep, ?_⟩
  rw [hregs, hrst, cycleRegs_of_reset, State.reset_regs]

end

section
/-! PROOFS of the encoding's family (30_encoding.md): decoding and encoding undo each other, every word has one row of
the table, and the bits a rule calls ignored are ignored. -/

open Sys2Proof Sys2Proof.Machine

namespace Sys2Proof

/-! ## Decoding an encoded instruction -/

theorem decode_encodeRead (a : RegAddr) (x : Word) : decode (encodeRead a x) = decodeRead a x := decode_read a x

theorem decode_encodeWrite (a : RegAddr) (d : Word) : decode (encodeWrite a d) = decodeWrite a d := decode_write a d

theorem decode_encodeCommand (op : BitVec 4) (r : BitVec 28) :
    decode (encodeCommand op r) = decodeCommand (commandWord op r) := by
  rw [encodeCommand, decode_encodeWrite, decodeWrite_ctrl]

/-- Decoding the encoding of a well-formed instruction gives it back, row by row. -/
theorem decode_encode {i : Instr} (h : i.wf = true) : decode (encode i) = i := by
  cases i with
  | cmdNop r => exact (decode_encodeCommand _ r).trans (decodeCommand_nop r)
  | cmdInit r => exact (decode_encodeCommand _ r).trans (decodeCommand_init r)
  | cmdNext r => exact (decode_encodeCommand _ r).trans (decodeCommand_next r)
  | cmdFirst r => exact (decode_encodeCommand _ r).trans (decodeCommand_first r)
  | cmdRsvd4 op r => exact (decode_encodeCommand op r).trans (decodeCommand_rsvd4 h r)
  | cmdRsvd8 op r => exact (decode_encodeCommand op r).trans (decodeCommand_rsvd8 h r)
  | rdId x => exact (decode_encodeRead _ x).trans (decodeRead_id x)
  | rdVersion x => exact (decode_encodeRead _ x).trans (decodeRead_version x)
  | rdCtrl x => exact (decode_encodeRead _ x).trans (decodeRead_ctrl x)
  | rdStatus x => exact (decode_encodeRead _ x).trans (decodeRead_status x)
  | rdMsg i x => exact (decode_encodeRead _ x).trans (decodeRead_msg i x)
  | rdDigest i x => exact (decode_encodeRead _ x).trans (decodeRead_digest i x)
  | rdRsvd04 a x => exact (decode_encodeRead a x).trans (decodeRead_rsvd04 h x)
  | rdRsvd08 a x => exact (decode_encodeRead a x).trans (decodeRead_rsvd08 h x)
  | rdRsvd28 a x => exact (decode_encodeRead a x).trans (decodeRead_rsvd28 h x)
  | rdRsvd30 a x => exact (decode_encodeRead a x).trans (decodeRead_rsvd30 h x)
  | wrId d => exact (decode_encodeWrite _ d).trans (decodeWrite_id d)
  | wrVersion d => exact (decode_encodeWrite _ d).trans (decodeWrite_version d)
  | wrStatus d => exact (decode_encodeWrite _ d).trans (decodeWrite_status d)
  | wrMsg i d => exact (decode_encodeWrite _ d).trans (decodeWrite_msg i d)
  | wrDigest i d => exact (decode_encodeWrite _ d).trans (decodeWrite_digest i d)
  | wrRsvd04 a d => exact (decode_encodeWrite a d).trans (decodeWrite_rsvd04 h d)
  | wrRsvd08 a d => exact (decode_encodeWrite a d).trans (decodeWrite_rsvd08 h d)
  | wrRsvd28 a d => exact (decode_encodeWrite a d).trans (decodeWrite_rsvd28 h d)
  | wrRsvd30 a d => exact (decode_encodeWrite a d).trans (decodeWrite_rsvd30 h d)

/-! ## Every word is an encoding -/

theorem exists_encode_eq_encodeRead (a : RegAddr) (x : Word) :
    ∃ i : Instr, i.wf = true ∧ encode i = encodeRead a x := by
  obtain rfl | rfl | rfl | rfl | h | h | ⟨k, rfl⟩ | ⟨k, rfl⟩ | h | h := addr_cases a
  · exact ⟨.rdId x, rfl, rfl⟩
  · exact ⟨.rdVersion x, rfl, rfl⟩
  · exact ⟨.rdCtrl x, rfl, rfl⟩
  · exact ⟨.rdStatus x, rfl, rfl⟩
  · exact ⟨.rdRsvd04 a x, h, rfl⟩
  · exact ⟨.rdRsvd08 a x, h, rfl⟩
  · exact ⟨.rdMsg k x, rfl, rfl⟩
  · exact ⟨.rdDigest k x, rfl, rfl⟩
  · exact ⟨.rdRsvd28 a x, h, rfl⟩
  · exact ⟨.rdRsvd30 a x, h, rfl⟩

theorem exists_encode_eq_encodeCommand (op : BitVec 4) (r : BitVec 28) :
    ∃ i : Instr, i.wf = true ∧ encode i = encodeCommand op r := by
  obtain rfl | rfl | rfl | rfl | h | h := op_cases op
  · exact ⟨.cmdNop r, rfl, rfl⟩
  · exact ⟨.cmdInit r, rfl, rfl⟩
  · exact ⟨.cmdNext r, rfl, rfl⟩
  · exact ⟨.cmdFirst r, rfl, rfl⟩
  · exact ⟨.cmdRsvd4 op r, h, rfl⟩
  · exact ⟨.cmdRsvd8 op r, h, rfl⟩

theorem exists_encode_eq_encodeWrite (a : RegAddr) (d : Word) :
    ∃ i : Instr, i.wf = true ∧ encode i = encodeWrite a d := by
  obtain rfl | rfl | rfl | rfl | h | h | ⟨k, rfl⟩ | ⟨k, rfl⟩ | h | h := addr_cases a
  · exact ⟨.wrId d, rfl, rfl⟩
  · exact ⟨.wrVersion d, rfl, rfl⟩
  · rw [← commandWord_fields d]
    exact exists_encode_eq_encodeCommand _ _
  · exact ⟨.wrStatus d, rfl, rfl⟩
  · exact ⟨.wrRsvd04 a d, h, rfl⟩
  · exact ⟨.wrRsvd08 a d, h, rfl⟩
  · exact ⟨.wrMsg k d, rfl, rfl⟩
  · exact ⟨.wrDigest k d, rfl, rfl⟩
  · exact ⟨.wrRsvd28 a d, h, rfl⟩
  · exact ⟨.wrRsvd30 a d, h, rfl⟩

/-- Every transaction word is the encoding of a well-formed instruction (R305: "A decoder is total"). -/
theorem exists_encode_eq (T : TWord) : ∃ i : Instr, i.wf = true ∧ encode i = T := by
  rw [← T.make_fields]
  cases T.we with
  | false => exact exists_encode_eq_encodeRead _ _
  | true => exact exists_encode_eq_encodeWrite _ _

theorem wf_decode (T : TWord) : (decode T).wf = true := by
  obtain ⟨i, hwf, rfl⟩ := exists_encode_eq T
  rwa [decode_encode hwf]

theorem encode_decode (T : TWord) : encode (decode T) = T := by
  obtain ⟨i, hwf, rfl⟩ := exists_encode_eq T
  rw [decode_encode hwf]

/-! ## The rows of the opcode table -/

/-- A well-formed instruction's encoding has the fixed bits of its row: the family `RowMatch`, put together. -/
theorem row_covers_encode {i : Instr} (h : i.wf = true) : i.row.covers (encode i) = true := by
  cases i with
  | cmdNop r => exact Laws.RowMatch.cmdNop r h
  | cmdInit r => exact Laws.RowMatch.cmdInit r h
  | cmdNext r => exact Laws.RowMatch.cmdNext r h
  | cmdFirst r => exact Laws.RowMatch.cmdFirst r h
  | cmdRsvd4 op r => exact Laws.RowMatch.cmdRsvd4 op r h
  | cmdRsvd8 op r => exact Laws.RowMatch.cmdRsvd8 op r h
  | rdId x => exact Laws.RowMatch.rdId x h
  | rdVersion x => exact Laws.RowMatch.rdVersion x h
  | rdCtrl x => exact Laws.RowMatch.rdCtrl x h
  | rdStatus x => exact Laws.RowMatch.rdStatus x h
  | rdMsg k x => exact Laws.RowMatch.rdMsg k x h
  | rdDigest k x => exact Laws.RowMatch.rdDigest k x h
  | rdRsvd04 a x => exact Laws.RowMatch.rdRsvd04 a x h
  | rdRsvd08 a x => exact Laws.RowMatch.rdRsvd08 a x h
  | rdRsvd28 a x => exact Laws.RowMatch.rdRsvd28 a x h
  | rdRsvd30 a x => exact Laws.RowMatch.rdRsvd30 a x h
  | wrId d => exact Laws.RowMatch.wrId d h
  | wrVersion d => exact Laws.RowMatch.wrVersion d h
  | wrStatus d => exact Laws.RowMatch.wrStatus d h
  | wrMsg k d => exact Laws.RowMatch.wrMsg k d h
  | wrDigest k d => exact Laws.RowMatch.wrDigest k d h
  | wrRsvd04 a d => exact Laws.RowMatch.wrRsvd04 a d h
  | wrRsvd08 a d => exact Laws.RowMatch.wrRsvd08 a d h
  | wrRsvd28 a d => exact Laws.RowMatch.wrRsvd28 a d h
  | wrRsvd30 a d => exact Laws.RowMatch.wrRsvd30 a d h

/-- The 25 rows of spec/opcode_table.json, in its order. -/
def allRows : List Row :=
  [.cmdNop, .cmdInit, .cmdNext, .cmdFirst, .cmdRsvd4, .cmdRsvd8, .rdId, .rdVersion, .rdCtrl, .rdStatus, .rdMsg,
    .rdDigest, .rdRsvd04, .rdRsvd08, .rdRsvd28, .rdRsvd30, .wrId, .wrVersion, .wrStatus, .wrMsg, .wrDigest, .wrRsvd04,
    .wrRsvd08, .wrRsvd28, .wrRsvd30]

theorem mem_allRows (row : Row) : row ∈ allRows := by cases row <;> decide

/-- Two rows that agree on the bits both fix are one row. -/
theorem row_eq_of_compatible : ∀ row ∈ allRows, ∀ row' ∈ allRows,
    row.matchMask.1 &&& row'.matchMask.2 = row'.matchMask.1 &&& row.matchMask.2 → row = row' := by decide

/-- A word falls under one row at most. -/
theorem row_eq_of_covers {row row' : Row} {T : TWord} (h : row.covers T = true) (h' : row'.covers T = true) :
    row = row' := by
  rw [Row.covers, beq_iff_eq] at h h'
  apply row_eq_of_compatible row (mem_allRows row) row' (mem_allRows row')
  rw [← h, ← h', BitVec.and_assoc, BitVec.and_assoc, BitVec.and_comm row.matchMask.2]

theorem row_decode_covers (T : TWord) : (decode T).row.covers T = true := by
  simpa only [encode_decode] using row_covers_encode (wf_decode T)

/-! ## Ignored bits -/

/-- The instruction of the same row with its reserved bits, or a read's wdata, 0 (R300, R301). -/
def Instr.canonicalForm : Instr → Instr
  | .cmdNop _ => .cmdNop 0
  | .cmdInit _ => .cmdInit 0
  | .cmdNext _ => .cmdNext 0
  | .cmdFirst _ => .cmdFirst 0
  | .cmdRsvd4 op _ => .cmdRsvd4 op 0
  | .cmdRsvd8 op _ => .cmdRsvd8 op 0
  | .rdId _ => .rdId 0
  | .rdVersion _ => .rdVersion 0
  | .rdCtrl _ => .rdCtrl 0
  | .rdStatus _ => .rdStatus 0
  | .rdMsg i _ => .rdMsg i 0
  | .rdDigest i _ => .rdDigest i 0
  | .rdRsvd04 addr _ => .rdRsvd04 addr 0
  | .rdRsvd08 addr _ => .rdRsvd08 addr 0
  | .rdRsvd28 addr _ => .rdRsvd28 addr 0
  | .rdRsvd30 addr _ => .rdRsvd30 addr 0
  | i => i

@[simp] theorem Instr.wf_canonicalForm (i : Instr) : i.canonicalForm.wf = i.wf := by cases i <;> rfl

@[simp] theorem Instr.canonical_canonicalForm (i : Instr) : i.canonicalForm.canonical = true := by cases i <;> rfl

@[simp] theorem Instr.row_canonicalForm (i : Instr) : i.canonicalForm.row = i.row := by cases i <;> rfl

/-- No meaning reads the bits that `canonicalForm` clears. -/
theorem exec_canonicalForm (i : Instr) (s : State) : exec i.canonicalForm s = exec i s := by cases i <;> rfl

end Sys2Proof

/-- Settles O12: row by row, the decoder reads the row's index and opcode back from the encoding (`decode_encode`). -/
theorem decodeOfEncodeIsTheInstruction : Obligations.DecodeOfEncodeIsTheInstruction := by
  unfold Obligations.DecodeOfEncodeIsTheInstruction
  exact fun _ hwf => decode_encode hwf

/-- Settles O13: every word is the encoding of a well-formed instruction (`exists_encode_eq`), which decoding gives
back. -/
theorem encodeOfDecodeIsTheWord : Obligations.EncodeOfDecodeIsTheWord := by
  unfold Obligations.EncodeOfDecodeIsTheWord
  exact fun T => ⟨wf_decode T, encode_decode T⟩

/-- Settles O14: the decoded instruction's row covers the word, and two rows never cover one word
(`row_eq_of_covers`). -/
theorem everyWordFallsUnderExactlyOneTableRow : Obligations.EveryWordFallsUnderExactlyOneTableRow := by
  unfold Obligations.EveryWordFallsUnderExactlyOneTableRow
  intro T row
  constructor
  · exact fun hcovers => row_eq_of_covers (row_decode_covers T) hcovers
  · rintro rfl
    exact row_decode_covers T

/-- Settles O16: the instruction with the ignored bits cleared (`Instr.canonicalForm`) is of the same row and has the
same meaning. -/
theorem everyInstructionActsAsACanonicalOne : Obligations.EveryInstructionActsAsACanonicalOne := by
  unfold Obligations.EveryInstructionActsAsACanonicalOne
  intro i hwf
  exact ⟨i.canonicalForm, by rwa [Instr.wf_canonicalForm], i.canonical_canonicalForm, i.row_canonicalForm,
    fun s => (exec_canonicalForm i s).symm⟩

/-- Settles O11: each word is closed, so the decoder evaluates on it. -/
theorem specExampleWordsDecode : Obligations.SpecExampleWordsDecode := by
  unfold Obligations.SpecExampleWordsDecode
  decide

end

section
/-! PROOFS of the cycle as the spec writes it (43_round_datapath.md section 3): the machine's cycle is
`Step(S, rst, txn)` with ReadValue, Datapath and HostWrite. -/

open Sys2Proof Sys2Proof.Machine

namespace Sys2Proof

@[simp] theorem toNat_msgAddr (i : BitVec 4) : (msgAddr i).toNat = 0x10 + i.toNat := by revert i; decide

@[simp] theorem toNat_digestAddr (i : BitVec 3) : (digestAddr i).toNat = 0x20 + i.toNat := by revert i; decide

end Sys2Proof

namespace Sys2Proof.Machine

/-! ## ReadValue (R908) -/

theorem readValue_of_write (S : Regs) {T : TWord} (h : T.we = true) : readValue S (some T) = 0 := by
  simp [readValue, h]

theorem readValue_msgAddr (S : Regs) (i : BitVec 4) (x : Word) :
    readValue S (some (TWord.make false (msgAddr i) x)) = S.msgWord i := by
  have hi := i.isLt
  have hword : S.msg.toList.getD (0x10 + i.toNat - 0x10) 0 = S.msgWord i := by
    rw [Nat.add_sub_cancel_left, List.getD_eq_getElem _ _ (by simpa using hi), Vector.getElem_toList, Regs.msgWord]
  simp only [readValue, TWord.make_we, TWord.make_addr, toNat_msgAddr, hword]
  rw [if_neg (by decide), if_neg (by omega), if_neg (by omega), if_neg (by omega), if_neg (by omega),
    if_pos (by omega)]

theorem readValue_digestAddr (S : Regs) (i : BitVec 3) (x : Word) :
    readValue S (some (TWord.make false (digestAddr i) x)) = S.digestWord i := by
  have hi := i.isLt
  have hword : S.hash.toList.getD (0x20 + i.toNat - 0x20) 0 = S.digestWord i := by
    rw [Nat.add_sub_cancel_left, List.getD_eq_getElem _ _ (by simpa using hi), Vector.getElem_toList, Regs.digestWord]
  simp only [readValue, TWord.make_we, TWord.make_addr, toNat_digestAddr, hword]
  rw [if_neg (by decide), if_neg (by omega), if_neg (by omega), if_neg (by omega), if_neg (by omega),
    if_neg (by omega), if_pos (by omega)]

/-- A read of a reserved index answers 0 (R906). -/
theorem readValue_reserved (S : Regs) {lo hi a : RegAddr} (x : Word) (h : inRange lo hi a = true)
    (hrsvd : 0x04 ≤ lo.toNat ∧ hi.toNat < 0x10 ∨ 0x28 ≤ lo.toNat) :
    readValue S (some (TWord.make false a x)) = 0 := by
  rw [inRange_iff] at h
  simp only [readValue, TWord.make_we, TWord.make_addr]
  rw [if_neg (by decide), if_neg (by omega), if_neg (by omega), if_neg (by omega), if_neg (by omega),
    if_neg (by omega), if_neg (by omega)]

/-- The read data of a decoded read is ReadValue of its word, index by index. -/
theorem instrReadData_decodeRead (S : Regs) (a : RegAddr) (x : Word) :
    instrReadData S (decodeRead a x) = readValue S (some (TWord.make false a x)) := by
  obtain rfl | rfl | rfl | rfl | h | h | ⟨k, rfl⟩ | ⟨k, rfl⟩ | h | h := addr_cases a
  · rw [decodeRead_id, readValue, TWord.make_we, TWord.make_addr]; rfl
  · rw [decodeRead_version, readValue, TWord.make_we, TWord.make_addr]; rfl
  · rw [decodeRead_ctrl, readValue, TWord.make_we, TWord.make_addr]; rfl
  · rw [decodeRead_status, readValue, TWord.make_we, TWord.make_addr]; rfl
  · rw [decodeRead_rsvd04 h, readValue_reserved S x h (by decide)]; rfl
  · rw [decodeRead_rsvd08 h, readValue_reserved S x h (by decide)]; rfl
  · rw [decodeRead_msg, readValue_msgAddr]; rfl
  · rw [decodeRead_digest, readValue_digestAddr]; rfl
  · rw [decodeRead_rsvd28 h, readValue_reserved S x h (by decide)]; rfl
  · rw [decodeRead_rsvd30 h, readValue_reserved S x h (by decide)]; rfl

/-- A write drives 0 (R908). -/
theorem instrReadData_decodeCommand (S : Regs) (op : BitVec 4) (r : BitVec 28) :
    instrReadData S (decodeCommand (commandWord op r)) = 0 := by
  obtain rfl | rfl | rfl | rfl | h | h := op_cases op
  · rw [decodeCommand_nop]; rfl
  · rw [decodeCommand_init]; rfl
  · rw [decodeCommand_next]; rfl
  · rw [decodeCommand_first]; rfl
  · rw [decodeCommand_rsvd4 h]; rfl
  · rw [decodeCommand_rsvd8 h]; rfl

theorem instrReadData_decodeWrite (S : Regs) (a : RegAddr) (d : Word) : instrReadData S (decodeWrite a d) = 0 := by
  obtain rfl | rfl | rfl | rfl | h | h | ⟨k, rfl⟩ | ⟨k, rfl⟩ | h | h := addr_cases a
  · rw [decodeWrite_id]; rfl
  · rw [decodeWrite_version]; rfl
  · rw [decodeWrite_ctrl, ← commandWord_fields d, instrReadData_decodeCommand]
  · rw [decodeWrite_status]; rfl
  · rw [decodeWrite_rsvd04 h]; rfl
  · rw [decodeWrite_rsvd08 h]; rfl
  · rw [decodeWrite_msg]; rfl
  · rw [decodeWrite_digest]; rfl
  · rw [decodeWrite_rsvd28 h]; rfl
  · rw [decodeWrite_rsvd30 h]; rfl

/-- The machine's read data is ReadValue (R908). -/
theorem instrReadData_decode (S : Regs) (T : TWord) : instrReadData S (decode T) = readValue S (some T) := by
  cases h : T.we with
  | false =>
    conv_rhs => rw [← T.make_fields, h]
    rw [decode_of_read h, instrReadData_decodeRead]
  | true => rw [decode_of_write h, instrReadData_decodeWrite, readValue_of_write S h]

/-! ## HostWrite (R912) -/

theorem hostWrite_of_read (S S1 : Regs) {T : TWord} (h : T.we = false) : hostWrite S S1 (some T) = S1 := by
  simp [hostWrite, h]

/-- A read writes nothing (R209). -/
theorem instrHostWrite_decodeRead (a : RegAddr) (x : Word) : instrHostWrite (decodeRead a x) = writeNothing := by
  obtain rfl | rfl | rfl | rfl | h | h | ⟨k, rfl⟩ | ⟨k, rfl⟩ | h | h := addr_cases a
  · rw [decodeRead_id]; rfl
  · rw [decodeRead_version]; rfl
  · rw [decodeRead_ctrl]; rfl
  · rw [decodeRead_status]; rfl
  · rw [decodeRead_rsvd04 h]; rfl
  · rw [decodeRead_rsvd08 h]; rfl
  · rw [decodeRead_msg]; rfl
  · rw [decodeRead_digest]; rfl
  · rw [decodeRead_rsvd28 h]; rfl
  · rw [decodeRead_rsvd30 h]; rfl

theorem instrHostWrite_decode_of_read {T : TWord} (h : T.we = false) : instrHostWrite (decode T) = writeNothing := by
  rw [decode_of_read h, instrHostWrite_decodeRead]

theorem hostWrite_ctrl (S S1 : Regs) (d : Word) :
    hostWrite S S1 (some (TWord.make true 0x02 d)) = applyCommand (d.toNat % 16) S S1 := by
  rw [hostWrite, TWord.make_we, TWord.make_addr, TWord.make_wdata]; rfl

theorem hostWrite_status (S S1 : Regs) (d : Word) :
    hostWrite S S1 (some (TWord.make true 0x03 d)) = { S1 with err := if d.getLsbD 2 then false else S1.err } := by
  rw [hostWrite, TWord.make_we, TWord.make_addr, TWord.make_wdata]
  exact (wrStatus_write d S S1)

theorem hostWrite_msgAddr (S S1 : Regs) (i : BitVec 4) (d : Word) :
    hostWrite S S1 (some (TWord.make true (msgAddr i) d)) = S1.setMsgWord i d := by
  have hi := i.isLt
  simp only [hostWrite, TWord.make_we, TWord.make_addr, TWord.make_wdata, toNat_msgAddr]
  rw [if_pos trivial, if_neg (by omega), if_neg (by omega), if_pos (by omega)]
  have hset : S1.msg.setIfInBounds i.toNat d = S1.msg.set i.toNat d := by
    ext j hj
    rw [Vector.getElem_setIfInBounds hj, Vector.getElem_set]
  rw [Nat.add_sub_cancel_left, hset, Regs.setMsgWord]

/-- A write to an index other than CTRL, STATUS and MSG is ignored (R913, R914). -/
theorem hostWrite_ignored (S S1 : Regs) {a : RegAddr} (d : Word) (hctrl : a ≠ 0x02) (hstatus : a ≠ 0x03)
    (hmsg : ¬ (0x10 ≤ a.toNat ∧ a.toNat ≤ 0x1F)) : hostWrite S S1 (some (TWord.make true a d)) = S1 := by
  have hctrlNat : a.toNat ≠ 0x02 := fun h => hctrl (BitVec.eq_of_toNat_eq h)
  have hstatusNat : a.toNat ≠ 0x03 := fun h => hstatus (BitVec.eq_of_toNat_eq h)
  simp only [hostWrite, TWord.make_we, TWord.make_addr]
  rw [if_pos trivial, if_neg hctrlNat, if_neg hstatusNat, if_neg hmsg]

theorem applyCommand_reserved {n : Nat} (h : 4 ≤ n) (S S1 : Regs) : applyCommand n S S1 = S1.setErr := by
  obtain ⟨k, rfl⟩ := Nat.exists_eq_add_of_le' h
  rfl

/-- A command of the machine is the spec's (R912), in a cycle where the host writes after the datapath's part: while
idle the datapath has none. -/
theorem instrHostWrite_decodeCommand (op : BitVec 4) (r : BitVec 28) {S S1 : Regs} (h1 : S.phase = .idle → S1 = S) :
    instrHostWrite (decodeCommand (commandWord op r)) S S1 = applyCommand op.toNat S S1 := by
  obtain rfl | rfl | rfl | rfl | h | h := op_cases op
  · rw [decodeCommand_nop]; rfl
  · rw [decodeCommand_init]; rfl
  · rw [decodeCommand_next]
    by_cases hidle : S.phase = .idle
    · rw [h1 hidle]; rfl
    · exact (testBusy_of_busy (fun S => startCompression S.hash S) S1 hidle).trans (if_neg hidle).symm
  · rw [decodeCommand_first]
    by_cases hidle : S.phase = .idle
    · rw [h1 hidle]; rfl
    · exact (testBusy_of_busy (fun S => startCompression iv (loadIv S)) S1 hidle).trans (if_neg hidle).symm
  · rw [decodeCommand_rsvd4 h, applyCommand_reserved ((inRange_iff _ _ _).mp h).1]; rfl
  · rw [decodeCommand_rsvd8 h, applyCommand_reserved (Nat.le_trans (by decide) ((inRange_iff _ _ _).mp h).1)]; rfl

theorem toNat_commandOp (d : Word) : (commandOp d).toNat = d.toNat % 16 := by
  rw [commandOp, BitVec.extractLsb'_toNat, Nat.shiftRight_zero]

/-- A reserved index is none that a write reaches. -/
theorem hostWrite_reserved (S S1 : Regs) {lo hi a : RegAddr} (d : Word) (h : inRange lo hi a = true)
    (hrsvd : 0x04 ≤ lo.toNat ∧ hi.toNat < 0x10 ∨ 0x28 ≤ lo.toNat) :
    hostWrite S S1 (some (TWord.make true a d)) = S1 := by
  rw [inRange_iff] at h
  refine hostWrite_ignored S S1 d ?_ ?_ (by omega)
  · rintro rfl; simp at h; omega
  · rintro rfl; simp at h; omega

theorem instrHostWrite_decodeWrite (a : RegAddr) (d : Word) {S S1 : Regs} (h1 : S.phase = .idle → S1 = S) :
    instrHostWrite (decodeWrite a d) S S1 = hostWrite S S1 (some (TWord.make true a d)) := by
  obtain rfl | rfl | rfl | rfl | h | h | ⟨k, rfl⟩ | ⟨k, rfl⟩ | h | h := addr_cases a
  · rw [decodeWrite_id, hostWrite_ignored _ _ d (by decide) (by decide) (by decide)]; rfl
  · rw [decodeWrite_version, hostWrite_ignored _ _ d (by decide) (by decide) (by decide)]; rfl
  · rw [decodeWrite_ctrl, hostWrite_ctrl, ← toNat_commandOp]
    conv_lhs => rw [← commandWord_fields d]
    rw [instrHostWrite_decodeCommand _ _ h1]
  · rw [decodeWrite_status, wrStatus_write, hostWrite_status]
  · rw [decodeWrite_rsvd04 h, hostWrite_reserved _ _ d h (by decide)]; rfl
  · rw [decodeWrite_rsvd08 h, hostWrite_reserved _ _ d h (by decide)]; rfl
  · rw [decodeWrite_msg, hostWrite_msgAddr]; rfl
  · have hignored : ∀ k, digestAddr k ≠ 0x02 ∧ digestAddr k ≠ 0x03 ∧
        ¬ (0x10 ≤ (digestAddr k).toNat ∧ (digestAddr k).toNat ≤ 0x1F) := by decide
    obtain ⟨hctrl, hstatus, hmsg⟩ := hignored k
    rw [decodeWrite_digest, hostWrite_ignored _ _ d hctrl hstatus hmsg]; rfl
  · rw [decodeWrite_rsvd28 h, hostWrite_reserved _ _ d h (by decide)]; rfl
  · rw [decodeWrite_rsvd30 h, hostWrite_reserved _ _ d h (by decide)]; rfl

/-- The machine's host write is HostWrite (R912). -/
theorem instrHostWrite_decode {S S1 : Regs} (h1 : S.phase = .idle → S1 = S) (T : TWord) :
    instrHostWrite (decode T) S S1 = hostWrite S S1 (some T) := by
  cases h : T.we with
  | false => rw [instrHostWrite_decode_of_read h, hostWrite_of_read S _ h, writeNothing_apply]
  | true =>
    conv_rhs => rw [← T.make_fields, h]
    rw [decode_of_write h, instrHostWrite_decodeWrite _ _ h1]

/-! ## MSG and ERR after a host write -/

/-- MSG after the host write of an instruction that found the words `msg` (R911). -/
def msgAfter : Instr → Vector Word 16 → Vector Word 16
  | .wrMsg i d, msg => msg.set i.toNat d
  | _, msg => msg

/-- ERR after the host write of an instruction that found the phase `phase` and the flag `err` (R804, R805, R910). -/
def errAfter : Instr → Phase → Bool → Bool
  | .cmdInit _, phase, err => if phase = .idle then err else true
  | .cmdNext _, phase, err => if phase = .idle then err else true
  | .cmdFirst _, phase, err => if phase = .idle then err else true
  | .cmdRsvd4 _ _, _, _ => true
  | .cmdRsvd8 _ _, _, _ => true
  | .wrStatus d, _, err => if d.getLsbD 2 then false else err
  | _, _, err => err

theorem testBusy_msg {f : Regs → Regs} (hf : ∀ S, (f S).msg = S.msg) (S S1 : Regs) :
    (testBusy f S S1).msg = S1.msg := by
  unfold testBusy; split
  · exact hf S1
  · rfl

theorem testBusy_err {f : Regs → Regs} (hf : ∀ S, (f S).err = S.err) (S S1 : Regs) :
    (testBusy f S S1).err = if S.phase = .idle then S1.err else true := by
  unfold testBusy; split
  · exact hf S1
  · rfl

theorem instrHostWrite_msg (i : Instr) (S S1 : Regs) : (instrHostWrite i S S1).msg = msgAfter i S1.msg := by
  cases i with
  | cmdInit r => exact testBusy_msg loadIv_msg S S1
  | cmdNext r => exact testBusy_msg (fun S => startCompression_msg S.hash S) S S1
  | cmdFirst r => exact testBusy_msg (fun S => startCompression_msg iv (loadIv S)) S S1
  | wrStatus d => rw [wrStatus_write]; rfl
  | _ => rfl

theorem instrHostWrite_err (i : Instr) (S S1 : Regs) :
    (instrHostWrite i S S1).err = errAfter i S.phase S1.err := by
  cases i with
  | cmdInit r => exact testBusy_err loadIv_err S S1
  | cmdNext r => exact testBusy_err (fun S => startCompression_err S.hash S) S S1
  | cmdFirst r => exact testBusy_err (fun S => startCompression_err iv (loadIv S)) S S1
  | wrStatus d => rw [wrStatus_write]; rfl
  | _ => rfl

/-- While the block is busy, the host write of an instruction is what it does to MSG and to ERR (R721). -/
theorem instrHostWrite_eq_of_busy (i : Instr) {S : Regs} (S1 : Regs) (h : S.phase ≠ .idle) :
    instrHostWrite i S S1 = { S1 with msg := msgAfter i S1.msg, err := errAfter i S.phase S1.err } := by
  rw [instrHostWrite_of_busy i S1 h, instrHostWrite_msg, instrHostWrite_err]

/-! ## Step (R720) -/

/-- A cycle is the spec's Step, with the model's draw. -/
theorem cycleState_eq_specStep (txn : Option TWord) (s : State) :
    ((cycleState txn s).regs, (cycleState txn s).out) =
      specStep (Config.resetRdata s.resetDraws) s.regs s.rstNow txn := by
  cases hrst : s.rstNow with
  | true => simp [cycleState, hrst, specStep, Regs.outputs]
  | false =>
    cases txn with
    | none => simp [cycleState, hrst, specStep, Regs.outputs, hostWrite, readValue]
    | some T =>
      simp [cycleState, hrst, specStep, Regs.outputs, instrHostWrite_decode datapath_of_idle, instrReadData_decode]

end Sys2Proof.Machine

/-- Settles O8: a step is one cycle (`step_of_presents`), in which the machine's read data is ReadValue and its host
write HostWrite (`cycleState_eq_specStep`). -/
theorem everyCycleIsTheSpecStep : Obligations.EveryCycleIsTheSpecStep := by
  unfold Obligations.EveryCycleIsTheSpecStep
  intro s txn hpresents
  obtain ⟨u, hstep, hregs, hout, -⟩ := step_of_presents hpresents
  refine ⟨u, Config.resetRdata s.resetDraws, hstep, ?_⟩
  rw [← cycleState_eq_specStep, cycleState_regs, hregs, hout]

/-- Settles O46: while busy a host write reaches MSG and ERR alone, which the datapath neither reads nor writes; while
idle the datapath does nothing. -/
theorem datapathAndHostWriteDisjointRegisters : Obligations.DatapathAndHostWriteDisjointRegisters := by
  unfold Obligations.DatapathAndHostWriteDisjointRegisters
  intro T S S1
  refine ⟨fun hbusy => ?_, datapath_of_idle⟩
  have hwrite (S1 : Regs) : hostWrite S S1 (some T) =
      { S1 with msg := msgAfter (decode T) S1.msg, err := errAfter (decode T) S.phase S1.err } := by
    rw [← instrHostWrite_decode (fun hidle => absurd hidle hbusy), instrHostWrite_eq_of_busy _ _ hbusy]
  refine ⟨?_, datapath_msg S, datapath_err S, ?_⟩
  · rw [hwrite S1]
  · rw [hwrite (datapath S), hwrite S, datapath_msg, datapath_err]

end

section
/-! PROOFS of the window and of the invariant of the registers: a window that holds the schedule from `n` on holds it
from `n + 1` on after a shift, so a ROUND cycle goes on to the next round, and every step keeps `Regs.Inv`. -/

open Sys2Proof Sys2Proof.Machine

namespace Sys2Proof.Machine

/-! ## The window (R602, R603) -/

/-- The words below index 15 move down by one in a shift. -/
theorem shiftWindow_of_lt (win : Vector Word 16) {k : Nat} (h : k < 15) : (shiftWindow win)[k] = win[k + 1] := by
  rw [shiftWindow_eq_ofFn, Vector.getElem_ofFn, dif_pos h]

/-- The new word of a shift comes in at index 15. -/
theorem shiftWindow_last (win : Vector Word 16) : (shiftWindow win)[15] = wnext win := rfl

/-- The window holds the words `W[n..n+15]` of block `M` (R603). -/
def holdsScheduleFrom (win : Vector Word 16) (M : Vector Word 16) (n : Nat) : Prop :=
  ∀ k : Fin 16, win[k] = schedule M (n + k)

theorem holdsScheduleFrom.getElem {win M : Vector Word 16} {n : Nat} (h : holdsScheduleFrom win M n) (k : Nat)
    (hk : k < 16 := by decide) : win[k] = schedule M (n + k) := h ⟨k, hk⟩

/-- A window loaded with the block holds its first words (R600). -/
theorem holdsScheduleFrom_zero (M : Vector Word 16) : holdsScheduleFrom M M 0 := fun k => by
  rw [Nat.zero_add, schedule_of_lt M k.isLt]
  rfl

/-- A shift moves the window on by one word: the new word is the recurrence of R604. -/
theorem holdsScheduleFrom.shiftWindow {win M : Vector Word 16} {n : Nat} (h : holdsScheduleFrom win M n) :
    holdsScheduleFrom (shiftWindow win) M (n + 1) := by
  rintro ⟨k, hk⟩
  obtain hlt | rfl : k < 15 ∨ k = 15 := by omega
  · calc (Machine.shiftWindow win)[k]
      _ = win[k + 1] := shiftWindow_of_lt win hlt
      _ = schedule M (n + (k + 1)) := h.getElem (k + 1) (by omega)
      _ = schedule M (n + 1 + k) := by rw [Nat.add_right_comm, Nat.add_assoc]
  · calc (Machine.shiftWindow win)[15]
      _ = wnext win := shiftWindow_last win
      _ = schedule M (n + 16) := by
        simp only [wnext, h.getElem 14, h.getElem 9, h.getElem 1, h.getElem 0, Nat.add_zero, schedule_add_sixteen]
      _ = schedule M (n + 1 + 15) := rfl

theorem holdsScheduleFrom_iterate (M : Vector Word 16) (n : Nat) : holdsScheduleFrom (shiftWindow^[n] M) M n := by
  induction n with
  | zero => exact holdsScheduleFrom_zero M
  | succ n ih =>
    rw [Function.iterate_succ_apply']
    exact ih.shiftWindow

/-! ## Rounds (R700, R710) -/

/-- A compression has its registers before round 0 when it starts (R600, R802, R803). -/
theorem beforeRound_startCompression (H : Vector Word 8) (S : Regs) :
    (startCompression H S).beforeRound H S.msg 0 := ⟨holdsScheduleFrom_zero S.msg, rfl⟩

/-- A ROUND cycle with t = n performs round `n`. -/
theorem beforeRound_roundCycle {S : Regs} {H : Vector Word 8} {M : Vector Word 16} {n : Nat} (ht : S.t.toNat = n)
    (h : S.beforeRound H M n) : (roundCycle S).beforeRound H M (n + 1) := by
  obtain ⟨hwin, hwork⟩ := h
  have hhead : S.win[0] = schedule M n := hwin 0
  exact ⟨holdsScheduleFrom.shiftWindow hwin, by rw [roundCycle_work, hhead, hwork, ht, workBefore]⟩

/-- The last round's t (R710). -/
theorem t_eq_iff_toNat_eq (t : BitVec 6) : t = 63 ↔ t.toNat = 63 := BitVec.toNat_inj.symm

/-- Before the last round t counts on. -/
theorem toNat_t_add_one {t : BitVec 6} (h : t ≠ 63) : (t + 1).toNat = t.toNat + 1 := by
  rw [Ne, t_eq_iff_toNat_eq] at h
  exact BitVec.toNat_add_of_lt (show t.toNat + 1 < 2 ^ 6 by omega)

/-! ## Accepted commands (R801 to R803) -/

theorem cmdInit_write_of_idle (r : BitVec 28) {S : Regs} (S1 : Regs) (h : S.phase = .idle) :
    instrHostWrite (.cmdInit r) S S1 = loadIv S1 := testBusy_of_idle loadIv S1 h

theorem cmdNext_write_of_idle (r : BitVec 28) {S : Regs} (S1 : Regs) (h : S.phase = .idle) :
    instrHostWrite (.cmdNext r) S S1 = startCompression S1.hash S1 :=
  testBusy_of_idle (fun S => startCompression S.hash S) S1 h

theorem cmdFirst_write_of_idle (r : BitVec 28) {S : Regs} (S1 : Regs) (h : S.phase = .idle) :
    instrHostWrite (.cmdFirst r) S S1 = startCompression iv (loadIv S1) :=
  testBusy_of_idle (fun S => startCompression iv (loadIv S)) S1 h

/-! ## The invariant -/

/-- MSG and ERR are no part of the invariant. -/
theorem Regs.Inv.with_msg_err {S : Regs} (h : S.Inv) (msg : Vector Word 16) (err : Bool) :
    ({ S with msg := msg, err := err } : Regs).Inv where
  t_zero := h.t_zero
  busy_not_valid := h.busy_not_valid
  in_round := h.in_round
  in_final := h.in_final

/-- In IDLE the invariant says that t is 0. -/
theorem Regs.Inv.of_idle {S : Regs} (hphase : S.phase = .idle) (ht : S.t = 0) : S.Inv where
  t_zero := fun _ => ht
  busy_not_valid := fun h => absurd hphase h
  in_round := fun h => absurd (hphase.symm.trans h) (by decide)
  in_final := fun h => absurd (hphase.symm.trans h) (by decide)

theorem inv_roundCycle {S : Regs} (hphase : S.phase = .round) (h : S.Inv) : (roundCycle S).Inv := by
  obtain ⟨M, hbefore⟩ := h.in_round hphase
  have hnext := beforeRound_roundCycle rfl hbefore
  have hvalid : S.valid = false := h.busy_not_valid (by simp [hphase])
  by_cases hlast : S.t = 63
  · have hp : (roundCycle S).phase = .final := by rw [roundCycle_phase, if_pos hlast]
    have ht : (roundCycle S).t = 0 := by rw [roundCycle_t, if_pos hlast]
    rw [(t_eq_iff_toNat_eq S.t).mp hlast] at hnext
    exact ⟨fun _ => ht, fun _ => hvalid, fun hr => absurd (hp.symm.trans hr) (by decide), fun _ => ⟨M, hnext⟩⟩
  · have hp : (roundCycle S).phase = .round := by rw [roundCycle_phase, if_neg hlast]
    have ht : (roundCycle S).t.toNat = S.t.toNat + 1 := by rw [roundCycle_t, if_neg hlast, toNat_t_add_one hlast]
    rw [← ht] at hnext
    exact ⟨fun hr => absurd hp hr, fun _ => hvalid, fun _ => ⟨M, hnext⟩,
      fun hf => absurd (hp.symm.trans hf) (by decide)⟩

theorem inv_datapath {S : Regs} (h : S.Inv) : (datapath S).Inv := by
  cases hphase : S.phase with
  | idle => rwa [datapath_of_idle hphase]
  | round => rw [datapath_of_round hphase]; exact inv_roundCycle hphase h
  | final => rw [datapath_of_final hphase]; exact .of_idle rfl (h.t_zero (by simp [hphase]))

/-- A compression that starts from the HASH of the registers meets the invariant. -/
theorem inv_startCompression (S : Regs) : (startCompression S.hash S).Inv where
  t_zero := fun h => absurd rfl h
  busy_not_valid := fun _ => rfl
  in_round := fun _ => ⟨S.msg, beforeRound_startCompression S.hash S⟩
  in_final := fun h => by cases h

/-- In IDLE a host write leaves the phase and t, or starts a compression from the HASH it leaves. -/
theorem inv_instrHostWrite_of_idle (i : Instr) {S : Regs} (hphase : S.phase = .idle) (h : S.Inv) :
    (instrHostWrite i S S).Inv := by
  have ht : S.t = 0 := h.t_zero (by simp [hphase])
  cases i with
  | cmdInit r => rw [cmdInit_write_of_idle r S hphase]; exact .of_idle hphase ht
  | cmdNext r => rw [cmdNext_write_of_idle r S hphase]; exact inv_startCompression S
  | cmdFirst r => rw [cmdFirst_write_of_idle r S hphase]; exact inv_startCompression (loadIv S)
  | wrStatus d => rw [wrStatus_write]; exact h.with_msg_err S.msg _
  | wrMsg k d => exact h.with_msg_err _ S.err
  | cmdRsvd4 op r => exact h.with_msg_err S.msg true
  | cmdRsvd8 op r => exact h.with_msg_err S.msg true
  | _ => exact h

theorem inv_cycleRegs (rst : Bool) (txn : Option TWord) {S : Regs} (h : S.Inv) : (cycleRegs rst txn S).Inv := by
  cases rst with
  | true => exact .of_idle rfl rfl
  | false =>
    cases txn with
    | none => exact inv_datapath h
    | some T =>
      by_cases hidle : S.phase = .idle
      · have hwrite := inv_instrHostWrite_of_idle (decode T) hidle h
        rwa [cycleRegs, if_neg Bool.false_ne_true, datapath_of_idle hidle]
      · rw [cycleRegs, if_neg Bool.false_ne_true]
        exact instrHostWrite_eq_of_busy (decode T) (datapath S) hidle ▸ (inv_datapath h).with_msg_err _ _

end Sys2Proof.Machine

/-- Settles O50: a cycle is a reset, the datapath's part, or that part and a host write, which while busy reaches only
MSG and ERR and while idle leaves phase and t or starts a compression (`inv_cycleRegs`). -/
theorem everyStepKeepsTheRegisterInvariant : Obligations.EveryStepKeepsTheRegisterInvariant := by
  unfold Obligations.EveryStepKeepsTheRegisterInvariant
  intro s t hinv hstep
  obtain ⟨txn, -, hregs, -⟩ := step_regs hstep
  rw [hregs]
  exact inv_cycleRegs s.rstNow txn hinv

/-- Settles O25: the loaded window holds the schedule from 0 on, and each shift moves it on by one word. -/
theorem shiftedWindowHoldsTheSchedule : Obligations.ShiftedWindowHoldsTheSchedule := by
  unfold Obligations.ShiftedWindowHoldsTheSchedule
  exact fun M n => holdsScheduleFrom_iterate M n

/-- Settles O49: the reset registers are idle with t = 0. -/
theorem resetRegistersMeetTheInvariant : Obligations.ResetRegistersMeetTheInvariant := by
  unfold Obligations.ResetRegistersMeetTheInvariant
  exact .of_idle rfl rfl

end

section
/-! PROOFS of a compression from acceptance to result (43_round_datapath.md section 2, 44_commands.md): an accepted
NEXT or FIRST brings the registers before round 0, each ROUND cycle on to the next round, whatever the host presents,
and the FINAL cycle to the result. -/

open Sys2Proof Sys2Proof.Machine

namespace Sys2Proof

/-- The three commands that test the phase. -/
theorem Instr.testsPhase_cases {i : Instr} (h : i.testsPhase) :
    (∃ r, i = .cmdInit r) ∨ (∃ r, i = .cmdNext r) ∨ ∃ r, i = .cmdFirst r := by
  cases i with
  | cmdInit r => exact .inl ⟨r, rfl⟩
  | cmdNext r => exact .inr (.inl ⟨r, rfl⟩)
  | cmdFirst r => exact .inr (.inr ⟨r, rfl⟩)
  | _ => simp [Instr.testsPhase, Instr.row] at h

end Sys2Proof

namespace Sys2Proof.Machine

/-! ## The stages of a compression -/

/-- The registers before round `n` of the compression of block `M` from `H` (R710, R714). -/
structure Regs.AtRound (S : Regs) (H : Vector Word 8) (M : Vector Word 16) (n : Nat) : Prop where
  phase : S.phase = .round
  t : S.t.toNat = n
  valid : S.valid = false
  hash : S.hash = H
  before : S.beforeRound H M n

/-- The registers in the FINAL cycle of the compression of block `M` from `H` (R712, R714). -/
structure Regs.AtFinal (S : Regs) (H : Vector Word 8) (M : Vector Word 16) : Prop where
  phase : S.phase = .final
  valid : S.valid = false
  hash : S.hash = H
  before : S.beforeRound H M 64

/-- The registers after the compression of block `M` from `H` (R711). -/
structure Regs.Compressed (S : Regs) (H : Vector Word 8) (M : Vector Word 16) : Prop where
  phase : S.phase = .idle
  valid : S.valid = true
  hash : S.hash = compress H M

/-- In a busy cycle without reset the datapath goes on; what is presented reaches MSG and ERR alone (R721). -/
theorem cycleRegs_of_busy (txn : Option TWord) {S : Regs} (h : S.phase ≠ .idle) :
    ∃ msg err, cycleRegs false txn S = { datapath S with msg := msg, err := err } := by
  cases txn with
  | none => exact ⟨_, _, rfl⟩
  | some T => exact ⟨_, _, instrHostWrite_eq_of_busy (decode T) (datapath S) h⟩

/-- In an idle cycle without reset the transaction's host write acts on the current registers (R713). -/
theorem cycleRegs_of_idle (T : TWord) {S : Regs} (h : S.phase = .idle) :
    cycleRegs false (some T) S = instrHostWrite (decode T) S S := by
  rw [cycleRegs, if_neg Bool.false_ne_true, datapath_of_idle h]

section
variable {S : Regs} {H : Vector Word 8} {M : Vector Word 16} {n : Nat} (txn : Option TWord)

/-- Before the last round a cycle goes on to the next round. -/
theorem Regs.AtRound.next (h : S.AtRound H M n) (hn : n < 63) : (cycleRegs false txn S).AtRound H M (n + 1) := by
  obtain ⟨msg, err, hcycle⟩ := cycleRegs_of_busy txn (S := S) (by simp [h.phase])
  have hlast : S.t ≠ 63 := by rw [Ne, t_eq_iff_toNat_eq, h.t]; omega
  rw [hcycle, datapath_of_round h.phase]
  exact ⟨by rw [roundCycle_phase, if_neg hlast], by rw [roundCycle_t, if_neg hlast, toNat_t_add_one hlast, h.t],
    h.valid, h.hash, beforeRound_roundCycle h.t h.before⟩

/-- The last round goes on to FINAL. -/
theorem Regs.AtRound.last (h : S.AtRound H M 63) : (cycleRegs false txn S).AtFinal H M := by
  obtain ⟨msg, err, hcycle⟩ := cycleRegs_of_busy txn (S := S) (by simp [h.phase])
  have hlast : S.t = 63 := (t_eq_iff_toNat_eq S.t).mpr h.t
  rw [hcycle, datapath_of_round h.phase]
  exact ⟨by rw [roundCycle_phase, if_pos hlast], h.valid, h.hash, beforeRound_roundCycle h.t h.before⟩

/-- The FINAL cycle adds, which is `Compress(H, M)` (R700, R712). -/
theorem Regs.AtFinal.next (h : S.AtFinal H M) : (cycleRegs false txn S).Compressed H M := by
  obtain ⟨msg, err, hcycle⟩ := cycleRegs_of_busy txn (S := S) (by simp [h.phase])
  obtain ⟨-, hwork⟩ := h.before
  rw [hcycle, datapath_of_final h.phase]
  exact ⟨rfl, rfl, by rw [finalCycle_hash, h.hash, hwork, compress]⟩

end

/-- A compression starts before round 0, with the block in MSG. -/
theorem atRound_startCompression (S : Regs) : (startCompression S.hash S).AtRound S.hash S.msg 0 :=
  ⟨rfl, rfl, rfl, rfl, beforeRound_startCompression S.hash S⟩

/-- The instruction starts a compression from `H` in the idle registers `S`: NEXT from HASH (R802), FIRST from IV
(R803). -/
def startsFrom (i : Instr) (S : Regs) (H : Vector Word 8) : Prop :=
  (∃ r, i = .cmdNext r ∧ H = S.hash) ∨ ∃ r, i = .cmdFirst r ∧ H = iv

theorem atRound_of_startsFrom {i : Instr} {S : Regs} {H : Vector Word 8} (hidle : S.phase = .idle)
    (h : startsFrom i S H) : (instrHostWrite i S S).AtRound H S.msg 0 := by
  obtain ⟨r, rfl, rfl⟩ | ⟨r, rfl, rfl⟩ := h
  · rw [cmdNext_write_of_idle r S hidle]
    exact atRound_startCompression S
  · rw [cmdFirst_write_of_idle r S hidle]
    exact atRound_startCompression (loadIv S)

/-! ## Runs without reset whose actions are on the bus -/

/-- The host's actions are on the bus, and no reset falls in the next `k` cycles. -/
def State.clear (s : State) (k : Nat) : Prop := (∀ p ∈ s.hostOps, p.onBus) ∧ s.noReset k

/-- A step leaves no actions but those there were. -/
theorem mem_hostOps_of_step {s t : State} (h : step s = .next t) {p : HostOp} (hp : p ∈ t.hostOps) :
    p ∈ s.hostOps := by
  cases ho : s.hostOps with
  | nil =>
    cases (step_nil ho).symm.trans h
    rw [State.dropRst_hostOps, cycleState_hostOps, ho] at hp
    exact hp
  | cons op rest =>
    obtain ⟨txn, hpresents, -⟩ := step_regs h
    cases (step_cons ho (presents_cons ho ▸ hpresents)).symm.trans h
    exact mem_after_hostOps (by rw [State.dropRst_hostOps, cycleState_hostOps, ho]) hp

/-- The first cycle of a run. -/
theorem step_of_run_succ {s u : State} {k : Nat} (h : run (k + 1) s = .next u) :
    ∃ t, step s = .next t ∧ run k t = .next u := by
  cases hstep : step s with
  | next t => exact ⟨t, rfl, (run_succ_of_next k hstep).symm.trans h⟩
  | fault r => cases r
  | refused r =>
    have hrefused : Sys2Proof.core.step s = .refused r := hstep
    simp [run, Host.Core.run, hrefused] at h

theorem step_of_run_succ_last {s u : State} {k : Nat} (h : run (k + 1) s = .next u) :
    ∃ t, run k s = .next t ∧ step t = .next u := by
  induction k generalizing s with
  | zero =>
    obtain ⟨t, hstep, hrun⟩ := step_of_run_succ h
    cases hrun
    exact ⟨s, run_zero s, hstep⟩
  | succ k ih =>
    obtain ⟨t, hstep, hrun⟩ := step_of_run_succ h
    obtain ⟨w, hw, hlast⟩ := ih hrun
    exact ⟨w, (run_succ_of_next k hstep).trans hw, hlast⟩

theorem noReset_of_step {s t : State} {k : Nat} (h : step s = .next t) (hs : s.noReset (k + 1)) : t.noReset k := by
  obtain ⟨-, -, -, hrst⟩ := step_regs h
  rw [Nat.add_comm] at hs
  exact hs.drop (by rw [hrst, List.drop_one])

/-- The registers and what is left clear after one step of a clear run. -/
theorem step_of_clear {s : State} {k : Nat} (h : s.clear (k + 1)) :
    ∃ u txn, step s = .next u ∧ u.regs = cycleRegs false txn s.regs ∧ u.clear k := by
  obtain ⟨hbus, hrst⟩ := h
  obtain ⟨u, hstep⟩ := step_of_onBus fun op hop => hbus op (List.mem_of_mem_head? hop)
  obtain ⟨txn, -, hregs, -⟩ := step_regs hstep
  rw [hrst.now] at hregs
  exact ⟨u, txn, hstep, hregs, fun p hp => hbus p (mem_hostOps_of_step hstep hp), noReset_of_step hstep hrst⟩

section
variable {s : State} {H : Vector Word 8} {M : Vector Word 16} {k : Nat} (h0 : s.regs.AtRound H M 0)
include h0

/-- `n` cycles after the start of a compression the registers are those before round `n`. -/
theorem run_atRound {n : Nat} (hn : n ≤ 63) (hclear : s.clear (n + k)) :
    ∃ u, run n s = .next u ∧ u.regs.AtRound H M n ∧ u.clear k := by
  induction n generalizing k with
  | zero => exact ⟨s, run_zero s, h0, by rwa [Nat.zero_add] at hclear⟩
  | succ n ih =>
    rw [Nat.add_right_comm] at hclear
    obtain ⟨u, hrun, hround, hu⟩ := ih (k := k + 1) (by omega) hclear
    obtain ⟨v, txn, hstep, hregs, hv⟩ := step_of_clear hu
    exact ⟨v, run_succ_last n hrun hstep, hregs ▸ hround.next txn hn, hv⟩

theorem run_atFinal (hclear : s.clear (64 + k)) : ∃ u, run 64 s = .next u ∧ u.regs.AtFinal H M ∧ u.clear k := by
  rw [Nat.add_right_comm 63 1] at hclear
  obtain ⟨u, hrun, hround, hu⟩ := run_atRound h0 (k := k + 1) le_rfl hclear
  obtain ⟨v, txn, hstep, hregs, hv⟩ := step_of_clear hu
  exact ⟨v, run_succ_last 63 hrun hstep, hregs ▸ hround.last txn, hv⟩

theorem run_compressed (hclear : s.clear (65 + k)) :
    ∃ u, run 65 s = .next u ∧ u.regs.Compressed H M ∧ u.clear k := by
  rw [Nat.add_right_comm 64 1] at hclear
  obtain ⟨u, hrun, hfinal, hu⟩ := run_atFinal h0 (k := k + 1) hclear
  obtain ⟨v, txn, hstep, hregs, hv⟩ := step_of_clear hu
  exact ⟨v, run_succ_last 64 hrun hstep, hregs ▸ hfinal.next txn, hv⟩

end

/-- The cycle that accepts a NEXT or FIRST. -/
theorem step_of_startsFrom {s : State} {op : HostOp} {rest : List HostOp} {T : TWord} {H : Vector Word 8} {k : Nat}
    (hidle : s.regs.phase = .idle) (ho : s.hostOps = op :: rest) (hT : op.presents = .ok (some T))
    (hstart : startsFrom (decode T) s.regs H) (hbus : ∀ p ∈ rest, p.onBus) (hrst : s.noReset (k + 1)) :
    ∃ u, step s = .next u ∧ u.regs.AtRound H s.regs.msg 0 ∧ u.clear k := by
  have hall : ∀ p ∈ s.hostOps, p.onBus := by
    rw [ho]
    exact List.forall_mem_cons.mpr ⟨⟨_, hT⟩, hbus⟩
  refine ⟨_, step_cons ho hT, ?_, fun p hp => hall p (mem_hostOps_of_step (step_cons ho hT) hp),
    noReset_of_step (step_cons ho hT) hrst⟩
  rw [after_regs, State.dropRst_regs, cycleState_regs, hrst.now, cycleRegs_of_idle T hidle]
  exact atRound_of_startsFrom hidle hstart

/-! ## Commands during and after a compression (R805) -/

/-- INIT, NEXT and FIRST are rejected while busy: only ERR changes beside the datapath's part (R808). -/
theorem exec_testsPhase_of_busy {i : Instr} {s : State} (h : i.testsPhase) (hbusy : s.regs.phase ≠ .idle) :
    exec i s = .next (s.cycled 0 { datapath s.regs with err := true }) := by
  obtain ⟨r, rfl⟩ | ⟨r, rfl⟩ | ⟨r, rfl⟩ := i.testsPhase_cases h
  · exact exec_of_setErr rfl (testBusy_of_busy loadIv _ hbusy)
  · exact exec_of_setErr rfl (testBusy_of_busy (fun S => startCompression S.hash S) _ hbusy)
  · exact exec_of_setErr rfl (testBusy_of_busy (fun S => startCompression iv (loadIv S)) _ hbusy)

/-- INIT, NEXT and FIRST are accepted while idle: VALID is cleared, ERR stays, and NEXT and FIRST start a
compression. -/
theorem write_testsPhase_of_idle {i : Instr} {S : Regs} (h : i.testsPhase) (hidle : S.phase = .idle) :
    (instrHostWrite i S (datapath S)).err = S.err ∧ (instrHostWrite i S (datapath S)).valid = false ∧
      (instrHostWrite i S (datapath S)).phase = if i.row = .cmdInit then .idle else .round := by
  rw [datapath_of_idle hidle]
  obtain ⟨r, rfl⟩ | ⟨r, rfl⟩ | ⟨r, rfl⟩ := i.testsPhase_cases h
  · rw [cmdInit_write_of_idle r S hidle]; exact ⟨rfl, rfl, hidle⟩
  · rw [cmdNext_write_of_idle r S hidle]; exact ⟨rfl, rfl, rfl⟩
  · rw [cmdFirst_write_of_idle r S hidle]; exact ⟨rfl, rfl, rfl⟩

theorem exists_startsFrom {i : Instr} (h : i.row = .cmdNext ∨ i.row = .cmdFirst) (S : Regs) :
    ∃ H, startsFrom i S H := by
  obtain ⟨r, rfl⟩ | ⟨r, rfl⟩ | ⟨r, rfl⟩ := i.testsPhase_cases (.inr h)
  · simp [Instr.row] at h
  · exact ⟨S.hash, .inl ⟨r, rfl, rfl⟩⟩
  · exact ⟨iv, .inr ⟨r, rfl, rfl⟩⟩

theorem cycleState_out_busy (txn : Option TWord) (s : State) : (cycleState txn s).out.busy = s.regs.busy := by
  unfold cycleState; split
  · rfl
  · cases txn <;> rfl

/-- The busy output of a cycle shows the phase of its current state (R720). -/
theorem out_busy_of_step {s t : State} (h : step s = .next t) : t.out.busy = s.regs.busy := by
  obtain ⟨txn, hpresents, -⟩ := step_regs h
  obtain ⟨u, hu, -, hout, -⟩ := step_of_presents hpresents
  cases hu.symm.trans h
  rw [hout, cycleState_out_busy]

/-- In each of the 65 cycles after the acceptance the block is busy. -/
theorem run_busy {s : State} {H : Vector Word 8} {M : Vector Word 16} (h0 : s.regs.AtRound H M 0) {n k : Nat}
    (hn : n ≤ 64) (hclear : s.clear (n + k)) :
    ∃ u, run n s = .next u ∧ u.regs.phase ≠ .idle ∧ u.clear k := by
  obtain hlt | rfl : n ≤ 63 ∨ n = 64 := by omega
  · obtain ⟨u, hrun, hu, hc⟩ := run_atRound h0 hlt hclear
    exact ⟨u, hrun, by simp [hu.phase], hc⟩
  · obtain ⟨u, hrun, hu, hc⟩ := run_atFinal h0 hclear
    exact ⟨u, hrun, by simp [hu.phase], hc⟩

/-! ## Two hosts with the same actions (R806) -/

/-- What the host has left after an action depends on the outputs and on what it had. -/
theorem after_hostOps_congr (op : HostOp) (rest : List HostOp) {s t : State} (hout : s.out = t.out)
    (hops : s.hostOps = t.hostOps) : (op.after rest s).hostOps = (op.after rest t).hostOps := by
  cases op with
  | idle => rfl
  | txn T => simp only [HostOp.after]; split <;> rfl
  | poll addr mask val =>
    simp only [HostOp.after, hout]
    split
    · rfl
    · exact hops
  | platform acc => simp only [HostOp.after]; split <;> rfl

/-- Without reset the registers and outputs of a cycle depend on the registers and the transaction alone. -/
theorem cycleState_congr {s t : State} (hregs : s.regs = t.regs) (hs : s.rstNow = false) (ht : t.rstNow = false)
    (txn : Option TWord) :
    (cycleState txn s).regs = (cycleState txn t).regs ∧ (cycleState txn s).out = (cycleState txn t).out := by
  rw [← Prod.mk.injEq, cycleState_eq_specStep, cycleState_eq_specStep, hregs, hs, ht]
  rfl

/-- Without reset a step depends on the registers and the host's actions alone. -/
theorem step_congr {s t u : State} (hregs : s.regs = t.regs) (hops : s.hostOps = t.hostOps) (hs : s.rstNow = false)
    (ht : t.rstNow = false) (h : step s = .next u) :
    ∃ v, step t = .next v ∧ u.regs = v.regs ∧ u.hostOps = v.hostOps := by
  cases ho : s.hostOps with
  | nil =>
    cases (step_nil ho).symm.trans h
    obtain ⟨hr, -⟩ := cycleState_congr hregs hs ht none
    exact ⟨_, step_nil (hops ▸ ho), by simpa using hr, by simpa using hops⟩
  | cons op rest =>
    obtain ⟨txn, hpresents, -⟩ := step_regs h
    have hop : op.presents = .ok txn := presents_cons ho ▸ hpresents
    cases (step_cons ho hop).symm.trans h
    obtain ⟨hr, hout⟩ := cycleState_congr hregs hs ht txn
    exact ⟨_, step_cons (hops ▸ ho) hop, by simpa using hr, after_hostOps_congr op rest hout (by simpa using hops)⟩

theorem run_congr {s t u : State} {k : Nat} (hregs : s.regs = t.regs) (hops : s.hostOps = t.hostOps)
    (hs : s.noReset k) (ht : t.noReset k) (h : run k s = .next u) : ∃ v, run k t = .next v ∧ u.regs = v.regs := by
  induction k generalizing s t with
  | zero =>
    cases h
    exact ⟨t, run_zero t, hregs⟩
  | succ k ih =>
    obtain ⟨s1, hs1, hrun⟩ := step_of_run_succ h
    obtain ⟨t1, ht1, hregs1, hops1⟩ := step_congr hregs hops hs.now ht.now hs1
    rw [run_succ_of_next k ht1]
    exact ih hregs1 hops1 (noReset_of_step hs1 hs) (noReset_of_step ht1 ht) hrun

/-- The step of an idle block for a line of a host program (R310) that is one write: its host write acts on the
current registers, and nothing is kept. -/
theorem step_writeLine {s : State} {line : HostLine} {T : TWord} {rest : List HostOp} (hidle : s.regs.phase = .idle)
    (hops : line.ops = [.txn T]) (ho : s.hostOps = line.ops ++ rest) (hrst : s.rstNow = false) (hwe : T.we = true) :
    ∃ u, step s = .next u ∧ u.regs = instrHostWrite (decode T) s.regs s.regs ∧ u.hostOps = rest ∧ u.kept = s.kept := by
  rw [hops] at ho
  obtain ⟨u, hstep, hregs, hrest, -, hkept⟩ := step_txn ho hrst
  rw [datapath_of_idle hidle] at hregs
  rw [if_pos hwe] at hkept
  exact ⟨u, hstep, hregs, hrest, hkept⟩

theorem step_lineInit {s : State} {rest : List HostOp} (hidle : s.regs.phase = .idle)
    (ho : s.hostOps = lineInit.ops ++ rest) (hrst : s.rstNow = false) :
    ∃ u, step s = .next u ∧ u.regs = loadIv s.regs ∧ u.hostOps = rest ∧ u.kept = s.kept := by
  have hdecode : decode (writeWord 0x02 1) = .cmdInit 0 := by decide
  obtain ⟨u, hstep, hregs, hrest, hkept⟩ := step_writeLine hidle rfl ho hrst (by decide)
  exact ⟨u, hstep, hregs.trans (hdecode ▸ cmdInit_write_of_idle 0 s.regs hidle), hrest, hkept⟩

theorem step_lineNext {s : State} {rest : List HostOp} (hidle : s.regs.phase = .idle)
    (ho : s.hostOps = lineNext.ops ++ rest) (hrst : s.rstNow = false) :
    ∃ u, step s = .next u ∧ u.regs = startCompression s.regs.hash s.regs ∧ u.hostOps = rest ∧ u.kept = s.kept := by
  have hdecode : decode (writeWord 0x02 2) = .cmdNext 0 := by decide
  obtain ⟨u, hstep, hregs, hrest, hkept⟩ := step_writeLine hidle rfl ho hrst (by decide)
  exact ⟨u, hstep, hregs.trans (hdecode ▸ cmdNext_write_of_idle 0 s.regs hidle), hrest, hkept⟩

theorem step_lineFirst {s : State} {rest : List HostOp} (hidle : s.regs.phase = .idle)
    (ho : s.hostOps = lineFirst.ops ++ rest) (hrst : s.rstNow = false) :
    ∃ u, step s = .next u ∧ u.regs = startCompression iv (loadIv s.regs) ∧ u.hostOps = rest ∧ u.kept = s.kept := by
  have hdecode : decode (writeWord 0x02 3) = .cmdFirst 0 := by decide
  obtain ⟨u, hstep, hregs, hrest, hkept⟩ := step_writeLine hidle rfl ho hrst (by decide)
  exact ⟨u, hstep, hregs.trans (hdecode ▸ cmdFirst_write_of_idle 0 s.regs hidle), hrest, hkept⟩

end Sys2Proof.Machine

/-- Settles O51: the accepting cycle brings the registers before round 0 (`step_of_startsFrom`), and the cycles after
it go through the 64 rounds (`run_atRound`) and FINAL (`run_atFinal`) to the result (`run_compressed`). -/
theorem acceptedCompressionEndsInCycleSixtySix : Obligations.AcceptedCompressionEndsInCycleSixtySix := by
  unfold Obligations.AcceptedCompressionEndsInCycleSixtySix
  intro s op rest T r H hidle ho hT hdecode hbus hrst
  have hstart : startsFrom (decode T) s.regs H := hdecode.imp (⟨r, ·⟩) (⟨r, ·⟩)
  obtain ⟨v, hstep, h0, hv⟩ := step_of_startsFrom hidle ho hT hstart hbus hrst
  have hrounds (n : Nat) (hn : n < 64) : v.clear (n + (65 - n)) := by rwa [Nat.add_sub_of_le (by omega)]
  refine ⟨fun n hn => ?_, ?_, ?_⟩
  · obtain ⟨u, hrun, hu, -⟩ := run_atRound h0 (by omega) (hrounds n hn)
    exact ⟨u, (run_succ_of_next n hstep).trans hrun, hu.phase, hu.t, hu.valid, hu.hash, hu.before⟩
  · obtain ⟨u, hrun, hu, -⟩ := run_atFinal (k := 1) h0 hv
    exact ⟨u, (run_succ_of_next 64 hstep).trans hrun, hu.phase, hu.valid, hu.hash⟩
  · obtain ⟨u, hrun, hu, -⟩ := run_compressed (k := 0) h0 hv
    exact ⟨u, (run_succ_of_next 65 hstep).trans hrun, hu.phase, hu.valid, hu.hash⟩

/-- Settles O52: cycles N+1..N+65 are busy (`run_busy`), so that a command in them is rejected, and cycle N+66 finds
the block idle (`run_compressed`). -/
theorem commandsAreRejectedForSixtyFiveCycles : Obligations.CommandsAreRejectedForSixtyFiveCycles := by
  unfold Obligations.CommandsAreRejectedForSixtyFiveCycles
  intro s op rest T hidle ho hT hrow hbus hrst
  obtain ⟨H, hstart⟩ := exists_startsFrom hrow s.regs
  obtain ⟨v, hstep, h0, hv⟩ := step_of_startsFrom hidle ho hT hstart hbus hrst
  have hbusy (n : Nat) (hn : n ≤ 64) : ∃ u, run n v = .next u ∧ u.regs.phase ≠ .idle ∧ u.clear (65 - n) :=
    run_busy h0 hn (by rwa [Nat.add_sub_of_le (by omega)])
  constructor
  · intro k hk1 hk65
    obtain ⟨n, rfl⟩ := Nat.exists_eq_add_of_le' hk1
    obtain ⟨u, hrun, hu, -⟩ := hbusy n (by omega)
    have hrun' := (run_succ_of_next n hstep).trans hrun
    refine ⟨u, hrun', ?_, fun i hi => exec_testsPhase_of_busy hi hu⟩
    obtain ⟨w, hw, hlast⟩ := step_of_run_succ_last hrun'
    rw [out_busy_of_step hlast, busy_eq_decide]
    cases n with
    | zero =>
      cases hw
      simp [hidle]
    | succ n =>
      obtain ⟨w', hw', hwbusy, -⟩ := hbusy n (by omega)
      cases hw'.symm.trans ((run_succ_of_next n hstep).symm.trans hw)
      simp [hwbusy]
  · obtain ⟨u, hrun, hu, -⟩ := run_compressed (k := 0) h0 hv
    refine ⟨u, (run_succ_of_next 65 hstep).trans hrun, fun i hi => ⟨_, exec_eq_clock i u, ?_⟩⟩
    exact write_testsPhase_of_idle hi hu.phase

/-- Settles O53: both sequences start a compression from IV in the same registers (`step_lineFirst`, `step_lineInit`
and `step_lineNext`), and from there the same actions do the same (`run_congr`). -/
theorem firstEqualsInitThenNext : Obligations.FirstEqualsInitThenNext := by
  unfold Obligations.FirstEqualsInitThenNext
  intro s rest hidle hbus hrst
  obtain ⟨u1, hu1, hu1regs, hu1ops, -⟩ :=
    step_lineFirst (s := { s with hostOps := lineFirst.ops ++ rest }) hidle rfl hrst.now
  obtain ⟨v1, hv1, hv1regs, hv1ops, -⟩ :=
    step_lineInit (s := { s with hostOps := lineInit.ops ++ lineNext.ops ++ rest }) hidle
      (List.append_assoc lineInit.ops lineNext.ops rest) hrst.now
  have hv1rst : v1.noReset 66 := noReset_of_step hv1 hrst
  have hv1idle : v1.regs.phase = .idle := by rw [hv1regs, loadIv_phase]; exact hidle
  obtain ⟨v2, hv2, hv2regs, hv2ops, -⟩ := step_lineNext hv1idle hv1ops hv1rst.now
  have hsame : u1.regs = v2.regs := by rw [hu1regs, hv2regs, hv1regs]; rfl
  have h0 : u1.regs.AtRound iv s.regs.msg 0 := hu1regs ▸ atRound_startCompression (loadIv s.regs)
  have hu1rst : u1.noReset 65 := (noReset_of_step hu1 hrst).mono (by decide)
  obtain ⟨u, hu, hdone, -⟩ := run_compressed (k := 0) h0 ⟨hu1ops ▸ hbus, hu1rst⟩
  obtain ⟨v, hv, huv⟩ := run_congr hsame (hu1ops.trans hv2ops.symm) hu1rst (noReset_of_step hv2 hv1rst) hu
  refine ⟨u, v, (run_succ_of_next 65 hu1).trans hu,
    (run_succ_of_next 66 hv1).trans ((run_succ_of_next 65 hv2).trans hv), ?_⟩
  rw [← huv]
  exact ⟨rfl, rfl, rfl, hdone.phase, hdone.phase, rfl⟩

end

section
/-! PROOFS of the host's blocks and of its procedure (40_host_padding.md, 46_digest_output.md, R1002): the number and
the packing of the blocks, WAIT, LOADBLK and READDIG as runs, and the induction over the blocks of a message. -/

open Sys2Proof Sys2Proof.Machine

namespace Sys2Proof.Machine

/-! ## The number of zeros and of blocks (R401, R404) -/

theorem padZeroCount_eq_emod (L : Nat) : (padZeroCount L : Int) = (55 - (L : Int)) % 64 := by
  unfold padZeroCount
  omega

@[simp] theorem length_blocksOf (m : List Byte) : (blocksOf m).length = (m.length + 8) / 64 + 1 := by
  rw [blocksOf, List.length_map, List.length_range, length_pad, padZeroCount]
  omega

/-! ## Packing (R404) -/

/-- Byte `k` of the four is in bits 31-8k down to 24-8k of the word. -/
theorem getLsbD_blockWord (P : List Byte) (j i : Nat) {k b : Nat} (hk : k < 4) (hb : b < 8) :
    (blockWord P j i).getLsbD (24 - 8 * k + b) = (P.getD (64 * j + 4 * i + k) 0).getLsbD b := by
  simp only [blockWord, packWord, BitVec.getLsbD_append]
  interval_cases k
  · rw [if_neg (by omega), if_neg (by omega), if_neg (by omega)]
    congr 1; omega
  · rw [if_neg (by omega), if_neg (by omega), if_pos (by omega)]
    congr 1; omega
  · rw [if_neg (by omega), if_pos (by omega)]
    congr 1; omega
  · rw [if_pos (by omega)]
    congr 1; omega

theorem getElem_blocksOf (m : List Byte) {j : Nat} (hj : j < (blocksOf m).length) (i : Fin 16) :
    ((blocksOf m)[j])[i] = blockWord (pad m) j i := by
  have hblock : (blocksOf m)[j] = block (pad m) j := by simp [blocksOf]
  rw [hblock, block, Fin.getElem_fin, Vector.getElem_ofFn]

/-- Every block of a message is within the padded message. -/
theorem lt_length_pad {m : List Byte} {j i k : Nat} (hj : j < (blocksOf m).length) (hi : i < 16) (hk : k < 4) :
    64 * j + 4 * i + k < (pad m).length := by
  rw [blocksOf, List.length_map, List.length_range] at hj
  omega

/-! ## Runs and the reset input -/

theorem noReset_of_run {s u : State} {j k : Nat} (h : run j s = .next u) (hs : s.noReset (j + k)) : u.noReset k := by
  induction j generalizing s with
  | zero =>
    cases h
    rwa [Nat.zero_add] at hs
  | succ j ih =>
    obtain ⟨t, hstep, hrun⟩ := step_of_run_succ h
    exact ih hrun (noReset_of_step hstep (by rwa [Nat.add_right_comm] at hs))

/-! ## WAIT (R311) -/

theorem cycleState_of_txn (T : TWord) {s : State} (hrst : s.rstNow = false) :
    cycleState (some T) s = s.clock (instrReadData s.regs (decode T)) (instrHostWrite (decode T)) := by
  rw [cycleState, hrst, if_neg Bool.false_ne_true]

/-- A POLL's step is that of its read; it goes on until the read data matches, and keeps nothing (R310). -/
theorem step_poll {s : State} {addr : RegAddr} {mask val : Word} {rest : List HostOp}
    (ho : s.hostOps = .poll addr mask val :: rest) (hrst : s.rstNow = false) :
    ∃ u, step s = .next u ∧ u.regs = datapath s.regs ∧
      u.out = s.regs.outputs (instrReadData s.regs (decode (readWord addr))) ∧ u.kept = s.kept ∧
      u.rstIn = s.rstIn.tail ∧
      u.hostOps = if instrReadData s.regs (decode (readWord addr)) &&& mask = val then rest else s.hostOps := by
  have hread : instrHostWrite (decode (readWord addr)) = writeNothing :=
    instrHostWrite_decode_of_read (TWord.make_we false addr 0)
  refine ⟨_, step_cons ho rfl, ?_⟩
  rw [cycleState_of_txn _ hrst, hread]
  refine ⟨after_regs _ _ _, after_out _ _ _, ?_, after_rstIn _ _ _, ?_⟩
  · simp only [HostOp.after]
    split <;> rfl
  · simp only [HostOp.after, State.dropRst_out, State.clock_out, Regs.outputs_rdata]
    exact apply_ite State.hostOps _ _ _

theorem statusWord_and_one_eq_zero_iff (S : Regs) : S.statusWord &&& 1 = 0 ↔ S.phase = .idle := by
  have hbits : ∀ busy valid err : Bool, ((0 : BitVec 29) ++ BitVec.ofBool err ++ BitVec.ofBool valid ++
      BitVec.ofBool busy) &&& 1 = 0 ↔ busy = false := by decide
  rw [← busy_eq_false_iff]
  exact hbits S.busy S.valid S.err

/-- WAIT ends in an idle cycle and goes on in a busy one. -/
theorem step_wait {s : State} {rest : List HostOp} (ho : s.hostOps = lineWait.ops ++ rest) (hrst : s.rstNow = false) :
    ∃ u, step s = .next u ∧ u.regs = datapath s.regs ∧ u.kept = s.kept ∧
      u.hostOps = if s.regs.phase = .idle then rest else s.hostOps := by
  have hdecode : decode (readWord 0x03) = .rdStatus 0 := by decide
  obtain ⟨u, hstep, hregs, -, hkept, -, hops⟩ := step_poll ho hrst
  refine ⟨u, hstep, hregs, hkept, hops.trans ?_⟩
  exact if_congr (hdecode ▸ statusWord_and_one_eq_zero_iff s.regs) rfl rfl

/-- While the block is busy, WAIT stays the host's next action. -/
theorem run_wait_of_busy {s : State} {rest : List HostOp} {k : Nat} (ho : s.hostOps = lineWait.ops ++ rest)
    (hrst : s.noReset k) (hbusy : ∀ n < k, ∃ u, run n s = .next u ∧ u.regs.phase ≠ .idle) :
    ∃ u, run k s = .next u ∧ u.hostOps = lineWait.ops ++ rest ∧ u.kept = s.kept := by
  induction k with
  | zero => exact ⟨s, run_zero s, ho, rfl⟩
  | succ k ih =>
    obtain ⟨u, hrun, hops, hkept⟩ := ih (hrst.mono (Nat.le_succ k)) fun n hn => hbusy n (Nat.lt_succ_of_lt hn)
    obtain ⟨u', hrun', hu⟩ := hbusy k (Nat.lt_succ_self k)
    cases hrun'.symm.trans hrun
    obtain ⟨v, hstep, -, hvkept, hvops⟩ := step_wait hops (noReset_of_run (k := 1) hrun hrst).now
    rw [if_neg hu] at hvops
    exact ⟨v, run_succ_last k hrun hstep, hvops.trans hops, hvkept.trans hkept⟩

/-- From the start of a compression WAIT takes 66 cycles, and the result is in HASH at its end (R711). -/
theorem run_wait {s : State} {rest : List HostOp} {H : Vector Word 8} {M : Vector Word 16}
    (h0 : s.regs.AtRound H M 0) (ho : s.hostOps = lineWait.ops ++ rest) (hbus : ∀ p ∈ s.hostOps, p.onBus)
    (hrst : s.noReset 66) :
    ∃ u, run 66 s = .next u ∧ u.regs.Compressed H M ∧ u.hostOps = rest ∧ u.kept = s.kept := by
  have hbusy (n : Nat) (hn : n < 65) : ∃ u, run n s = .next u ∧ u.regs.phase ≠ .idle := by
    obtain ⟨u, hrun, hu, -⟩ := run_busy (n := n) (k := 0) h0 (by omega) ⟨hbus, hrst.mono (by omega)⟩
    exact ⟨u, hrun, hu⟩
  obtain ⟨u, hrun, hops, hkept⟩ := run_wait_of_busy ho (hrst.mono (by decide)) hbusy
  obtain ⟨u', hrun', hdone, -⟩ := run_compressed (k := 0) h0 ⟨hbus, hrst.mono (by decide)⟩
  cases hrun'.symm.trans hrun
  obtain ⟨v, hstep, hregs, hvkept, hvops⟩ := step_wait hops (noReset_of_run (k := 1) hrun hrst).now
  rw [if_pos hdone.phase] at hvops
  rw [datapath_of_idle hdone.phase] at hregs
  exact ⟨v, run_succ_last 65 hrun hstep, hregs ▸ hdone, hvops, hvkept.trans hkept⟩

/-! ## LOADBLK (R311) -/

@[simp] theorem opsOf_cons (line : HostLine) (lines : List HostLine) :
    opsOf (line :: lines) = line.ops ++ opsOf lines := List.flatMap_cons

@[simp] theorem opsOf_append (lines lines' : List HostLine) : opsOf (lines ++ lines') = opsOf lines ++ opsOf lines' :=
  List.flatMap_append

/-- MSG after the writes `ws` of a MSG word each, in order (R911). -/
def setMsgWords (msg : Vector Word 16) (ws : List (BitVec 4 × Word)) : Vector Word 16 :=
  ws.foldl (fun msg w => msg.set w.1.toNat w.2) msg

/-- The line that writes a MSG word. -/
def lineWriteMsg (w : BitVec 4 × Word) : HostLine := .wr (.msg w.1) w.2

theorem step_lineWriteMsg {s : State} {w : BitVec 4 × Word} {rest : List HostOp} (hidle : s.regs.phase = .idle)
    (ho : s.hostOps = (lineWriteMsg w).ops ++ rest) (hrst : s.rstNow = false) :
    ∃ u, step s = .next u ∧ u.regs = s.regs.setMsgWord w.1 w.2 ∧ u.hostOps = rest ∧ u.kept = s.kept := by
  have hdecode : decode (writeWord (msgAddr w.1) w.2) = .wrMsg w.1 w.2 :=
    (decode_write _ _).trans (decodeWrite_msg w.1 w.2)
  obtain ⟨u, hstep, hregs, hrest, hkept⟩ :=
    step_writeLine (T := writeWord (msgAddr w.1) w.2) hidle rfl ho hrst (TWord.make_we true _ _)
  rw [hdecode] at hregs
  exact ⟨u, hstep, hregs, hrest, hkept⟩

/-- In an idle block MSG writes set their words, one a cycle, and nothing else. -/
theorem run_lineWriteMsg {ws : List (BitVec 4 × Word)} {s : State} {rest : List HostOp} (hidle : s.regs.phase = .idle)
    (ho : s.hostOps = opsOf (ws.map lineWriteMsg) ++ rest) (hrst : s.noReset ws.length) :
    ∃ u, run ws.length s = .next u ∧ u.regs = { s.regs with msg := setMsgWords s.regs.msg ws } ∧ u.hostOps = rest ∧
      u.kept = s.kept := by
  induction ws generalizing s with
  | nil => exact ⟨s, run_zero s, rfl, ho, rfl⟩
  | cons w ws ih =>
    rw [List.map_cons, opsOf_cons, List.append_assoc] at ho
    obtain ⟨t, hstep, htregs, htops, htkept⟩ := step_lineWriteMsg hidle ho hrst.now
    obtain ⟨u, hrun, huregs, huops, hukept⟩ := ih (by rw [htregs]; exact hidle) htops (noReset_of_step hstep hrst)
    exact ⟨u, (run_succ_of_next _ hstep).trans hrun, by rw [huregs, htregs]; rfl, huops, hukept.trans htkept⟩

/-- The writes of LOADBLK, MSG0 first (R311). -/
def blockWrite (M : Vector Word 16) (i : Nat) : BitVec 4 × Word := (BitVec.ofNat 4 i, M.toList.getD i 0)

theorem linesLoadBlk_eq (M : Vector Word 16) :
    linesLoadBlk M = ((List.range 16).map (blockWrite M)).map lineWriteMsg := by
  rw [List.map_map]
  rfl

/-- The first `n` writes of LOADBLK load the first `n` words. -/
theorem getElem_setMsgWords_blockWrite (M msg : Vector Word 16) {n : Nat} (hn : n ≤ 16) {k : Nat} (hk : k < 16) :
    (setMsgWords msg ((List.range n).map (blockWrite M)))[k] = if k < n then M[k] else msg[k] := by
  induction n with
  | zero => rfl
  | succ n ih =>
    have hindex : (blockWrite M n).1.toNat = n := Nat.mod_eq_of_lt hn
    have hword : (blockWrite M n).2 = M[n] := by
      rw [blockWrite, List.getD_eq_getElem _ _ (by simpa using hn), Vector.getElem_toList]
    rw [List.range_succ, List.map_append, setMsgWords, List.foldl_append, List.map_singleton, List.foldl_cons,
      List.foldl_nil, Vector.getElem_set, hword, ← setMsgWords, ih (by omega), hindex]
    obtain rfl | hne := eq_or_ne n k
    · rw [if_pos rfl, if_pos (Nat.lt_succ_self n)]
    · have hlt : k < n ↔ k < n + 1 := by omega
      rw [if_neg hne, if_congr hlt rfl rfl]

theorem setMsgWords_blockWrite (M msg : Vector Word 16) :
    setMsgWords msg ((List.range 16).map (blockWrite M)) = M := by
  ext k hk
  rw [getElem_setMsgWords_blockWrite M msg le_rfl hk, if_pos hk]

theorem run_linesLoadBlk {M : Vector Word 16} {s : State} {rest : List HostOp} (hidle : s.regs.phase = .idle)
    (ho : s.hostOps = opsOf (linesLoadBlk M) ++ rest) (hrst : s.noReset 16) :
    ∃ u, run 16 s = .next u ∧ u.regs = { s.regs with msg := M } ∧ u.hostOps = rest ∧ u.kept = s.kept := by
  rw [linesLoadBlk_eq] at ho
  obtain ⟨u, hrun, hregs, hops, hkept⟩ := run_lineWriteMsg hidle ho hrst
  exact ⟨u, hrun, by rw [hregs, setMsgWords_blockWrite], hops, hkept⟩

/-! ## READDIG (R311) -/

/-- The line that reads a DIGEST word. -/
def lineReadDigest (i : BitVec 3) : HostLine := .rd (.digest i)

theorem step_lineReadDigest {s : State} {i : BitVec 3} {rest : List HostOp} (hidle : s.regs.phase = .idle)
    (ho : s.hostOps = (lineReadDigest i).ops ++ rest) (hrst : s.rstNow = false) :
    ∃ u, step s = .next u ∧ u.regs = s.regs ∧ u.hostOps = rest ∧ u.kept = s.kept ++ [s.regs.digestWord i] := by
  have hdecode : decode (readWord (digestAddr i)) = .rdDigest i 0 :=
    (decode_read _ _).trans (decodeRead_digest i 0)
  obtain ⟨u, hstep, hregs, hrest, -, hkept⟩ := step_txn ho hrst
  rw [RegName.index, hdecode] at hregs hkept
  refine ⟨u, hstep, hregs.trans (datapath_of_idle hidle), hrest, hkept.trans (if_neg ?_)⟩
  rw [readWord, TWord.make_we]
  exact Bool.false_ne_true

/-- In an idle block DIGEST reads keep the words of HASH, one a cycle, and change nothing. -/
theorem run_lineReadDigest {is : List (BitVec 3)} {s : State} {rest : List HostOp} (hidle : s.regs.phase = .idle)
    (ho : s.hostOps = opsOf (is.map lineReadDigest) ++ rest) (hrst : s.noReset is.length) :
    ∃ u, run is.length s = .next u ∧ u.hostOps = rest ∧ u.kept = s.kept ++ is.map s.regs.digestWord := by
  induction is generalizing s with
  | nil => exact ⟨s, run_zero s, ho, by simp⟩
  | cons i is ih =>
    rw [List.map_cons, opsOf_cons, List.append_assoc] at ho
    obtain ⟨t, hstep, htregs, htops, htkept⟩ := step_lineReadDigest hidle ho hrst.now
    obtain ⟨u, hrun, huops, hukept⟩ := ih (by rw [htregs]; exact hidle) htops (noReset_of_step hstep hrst)
    exact ⟨u, (run_succ_of_next _ hstep).trans hrun, huops, by rw [hukept, htkept, htregs]; simp⟩

/-- The words of HASH in order. -/
theorem map_digestWord_eq_toList (S : Regs) :
    ((List.range 8).map (BitVec.ofNat 3)).map S.digestWord = S.hash.toList := by
  apply List.ext_getElem (by simp)
  intro n hn hn'
  have hlt : n < 8 := by simpa using hn
  have hindex : (BitVec.ofNat 3 n).toNat = n := Nat.mod_eq_of_lt hlt
  simp only [List.getElem_map, List.getElem_range, Regs.digestWord, hindex, Vector.getElem_toList]

theorem linesReadDig_eq : linesReadDig = ((List.range 8).map (BitVec.ofNat 3)).map lineReadDigest := by
  rw [List.map_map]
  rfl

theorem run_linesReadDig {s : State} {rest : List HostOp} (hidle : s.regs.phase = .idle)
    (ho : s.hostOps = opsOf linesReadDig ++ rest) (hrst : s.noReset 8) :
    ∃ u, run 8 s = .next u ∧ u.hostOps = rest ∧ u.kept = s.kept ++ s.regs.hash.toList := by
  rw [linesReadDig_eq] at ho
  rw [← map_digestWord_eq_toList]
  exact run_lineReadDigest hidle ho hrst

/-! ## The procedure (R1002) -/

/-- Every action of a host program's lines is on the bus. -/
theorem onBus_of_mem_opsOf {lines : List HostLine} {p : HostOp} (h : p ∈ opsOf lines) : p.onBus := by
  obtain ⟨line, -, hp⟩ := List.mem_flatMap.mp h
  cases line with
  | wr reg imm => cases List.mem_singleton.mp hp; exact ⟨_, rfl⟩
  | rd reg => cases List.mem_singleton.mp hp; exact ⟨_, rfl⟩
  | idle n => cases List.eq_of_mem_replicate hp; exact ⟨_, rfl⟩
  | poll reg mask val => cases List.mem_singleton.mp hp; exact ⟨_, rfl⟩

/-- LOADBLK and then the command that starts a compression. -/
theorem run_loadAndStart {s : State} {line : HostLine} {T : TWord} {lines : List HostLine} {H : Vector Word 8}
    {M : Vector Word 16} (hidle : s.regs.phase = .idle) (hops : line.ops = [.txn T]) (hwe : T.we = true)
    (hstart : startsFrom (decode T) s.regs H) (ho : s.hostOps = opsOf (linesLoadBlk M ++ line :: lines))
    (hrst : s.noReset 17) :
    ∃ u, run 17 s = .next u ∧ u.regs.AtRound H M 0 ∧ u.hostOps = opsOf lines ∧ u.kept = s.kept := by
  rw [opsOf_append, opsOf_cons] at ho
  obtain ⟨t, ht, htregs, htops, htkept⟩ := run_linesLoadBlk hidle ho (hrst.mono (by decide))
  have htidle : t.regs.phase = .idle := by rw [htregs]; exact hidle
  obtain ⟨u, hu, huregs, huops, hukept⟩ :=
    step_writeLine htidle hops htops (noReset_of_run (k := 1) ht hrst).now hwe
  rw [htregs] at huregs
  exact ⟨u, run_succ_last 16 ht hu, huregs ▸ atRound_of_startsFrom (S := { s.regs with msg := M }) hidle hstart, huops,
    hukept.trans htkept⟩

/-- What is left of the procedure once a compression has started, `Ms` being the blocks still to come. -/
def linesAfterStart (Ms : List (Vector Word 16)) : List HostLine :=
  Ms.flatMap (linesBlock lineNext) ++ [lineWait] ++ linesReadDig

theorem linesAfterStart_nil : linesAfterStart [] = lineWait :: linesReadDig := rfl

theorem linesAfterStart_cons (M : Vector Word 16) (Ms : List (Vector Word 16)) :
    linesAfterStart (M :: Ms) = lineWait :: (linesLoadBlk M ++ lineNext :: linesAfterStart Ms) := by
  simp [linesAfterStart, linesBlock]

theorem linesDigest_cons (M : Vector Word 16) (Ms : List (Vector Word 16)) :
    linesDigest (M :: Ms) = lineWait :: (linesLoadBlk M ++ lineFirst :: linesAfterStart Ms) := by
  simp [linesDigest, linesAfterStart, linesBlock]

/-- From the start of the compression of a block, the rest of the procedure compresses the blocks still to come and
keeps the words of the result. -/
theorem run_linesAfterStart {Ms : List (Vector Word 16)} {s : State} {H : Vector Word 8} {M : Vector Word 16}
    (h0 : s.regs.AtRound H M 0) (ho : s.hostOps = opsOf (linesAfterStart Ms))
    (hrst : s.noReset (66 + (83 * Ms.length + 8))) :
    ∃ u, run (66 + (83 * Ms.length + 8)) s = .next u ∧ u.hostOps = [] ∧
      u.kept = s.kept ++ (Ms.foldl compress (compress H M)).toList := by
  have hbus : ∀ p ∈ s.hostOps, p.onBus := by
    rw [ho]
    exact fun p => onBus_of_mem_opsOf
  induction Ms generalizing s H M with
  | nil =>
    rw [linesAfterStart_nil, opsOf_cons] at ho
    obtain ⟨t, ht, hdone, htops, htkept⟩ := run_wait h0 ho hbus (hrst.mono (Nat.le_add_right _ _))
    rw [← List.append_nil (opsOf linesReadDig)] at htops
    obtain ⟨u, hu, huops, hukept⟩ := run_linesReadDig hdone.phase htops (noReset_of_run ht hrst)
    exact ⟨u, (run_add 66 8 ht).trans hu, huops, by rw [hukept, htkept, hdone.hash, List.foldl_nil]⟩
  | cons M' Ms ih =>
    have hcycles : 83 * (M' :: Ms).length + 8 = 17 + (66 + (83 * Ms.length + 8)) := by
      rw [List.length_cons]; omega
    rw [hcycles] at hrst ⊢
    rw [linesAfterStart_cons, opsOf_cons] at ho
    obtain ⟨t, ht, hdone, htops, htkept⟩ := run_wait h0 ho hbus (hrst.mono (Nat.le_add_right _ _))
    have htrst := noReset_of_run ht hrst
    obtain ⟨v, hv, hv0, hvops, hvkept⟩ := run_loadAndStart (line := lineNext) hdone.phase rfl (by decide)
      (.inl ⟨0, by decide, rfl⟩) htops (htrst.mono (Nat.le_add_right _ _))
    obtain ⟨u, hu, huops, hukept⟩ := ih hv0 hvops (noReset_of_run hv htrst) (hvops ▸ fun p => onBus_of_mem_opsOf)
    refine ⟨u, (run_add 66 _ ht).trans ((run_add 17 _ hv).trans hu), huops, ?_⟩
    rw [hukept, hvkept, htkept, hdone.hash, List.foldl_cons]

/-- The procedure from an idle block. -/
theorem run_linesDigest {Ms : List (Vector Word 16)} {M : Vector Word 16} {s : State} (hidle : s.regs.phase = .idle)
    (ho : s.hostOps = opsOf (linesDigest (M :: Ms))) (hrst : s.noReset (18 + (66 + (83 * Ms.length + 8)))) :
    ∃ u, run (18 + (66 + (83 * Ms.length + 8))) s = .next u ∧ u.hostOps = [] ∧
      u.kept = s.kept ++ (hashBlocks (M :: Ms)).toList := by
  have hsum : 18 + (66 + (83 * Ms.length + 8)) = 1 + (17 + (66 + (83 * Ms.length + 8))) := by omega
  rw [hsum] at hrst ⊢
  rw [linesDigest_cons, opsOf_cons] at ho
  obtain ⟨t, ht, htregs, htkept, htops⟩ := step_wait ho (hrst.mono (j := 1) (Nat.le_add_right _ _)).now
  rw [datapath_of_idle hidle] at htregs
  rw [if_pos hidle] at htops
  have htrun : run 1 s = .next t := (run_succ_of_next 0 ht).trans (run_zero t)
  have htrst := noReset_of_run htrun hrst
  obtain ⟨v, hv, hv0, hvops, hvkept⟩ := run_loadAndStart (line := lineFirst) (htregs ▸ hidle) rfl (by decide)
      (.inr ⟨0, by decide, rfl⟩) htops (htrst.mono (Nat.le_add_right _ _))
  obtain ⟨u, hu, huops, hukept⟩ := run_linesAfterStart hv0 hvops (noReset_of_run hv htrst)
  refine ⟨u, (run_add 1 _ htrun).trans ((run_add 17 _ hv).trans hu), huops, ?_⟩
  rw [hukept, hvkept, htkept]
  rfl

end Sys2Proof.Machine

/-- Settles O60: the first WAIT finds the block idle, each block is loaded and its compression awaited
(`run_linesAfterStart`, by induction over the blocks), and the words read are `hashBlocks` of the blocks. -/
theorem procedureComputesTheDigestOfEveryMessage : Obligations.ProcedureComputesTheDigestOfEveryMessage := by
  unfold Obligations.ProcedureComputesTheDigestOfEveryMessage
  intro m s hlen hidle ho hrst
  have hdigest : sha256Digest m = some (digestBytes (hashBlocks (blocksOf m))) := if_pos hlen
  have hcount := length_blocksOf m
  generalize blocksOf m = blocks at *
  cases blocks with
  | nil => exact absurd hcount (Nat.succ_ne_zero _).symm
  | cons M Ms =>
    have hcycles : 1 + 83 * (M :: Ms).length + 8 = 18 + (66 + (83 * Ms.length + 8)) := by
      rw [List.length_cons]; omega
    rw [hcycles] at hrst ⊢
    obtain ⟨u, hrun, huops, hukept⟩ := run_linesDigest hidle ho hrst
    exact ⟨u, hashBlocks (M :: Ms), hrun, huops, hukept, hdigest⟩

/-- Settles O55: the loop's zeros counted over the integers, and the padded length in blocks of 64 bytes. -/
theorem paddingSizeAndBlockCount : Obligations.PaddingSizeAndBlockCount := by
  unfold Obligations.PaddingSizeAndBlockCount
  exact fun m => ⟨padZeroCount m.length, padZeroCount_eq_emod m.length, pad_eq m, length_pad m, length_blocksOf m⟩

/-- Settles O56: a word is the packing of its four bytes (`getLsbD_blockWord`), and the blocks are within the padded
message. -/
theorem blockWordsArePackedBigEndian : Obligations.BlockWordsArePackedBigEndian := by
  unfold Obligations.BlockWordsArePackedBigEndian
  intro m j hj i k b hk hb
  refine ⟨lt_length_pad hj i.isLt hk, ?_⟩
  rw [getElem_blocksOf, getLsbD_blockWord _ _ _ hk hb]

end

section
/-! PROOFS of the step and its two agents (20_memory.md section 3, 30_encoding.md section 5, 43_round_datapath.md
section 3): when a step answers, what a platform access is, and what each kind of action makes of a cycle. -/

open Sys2Proof Sys2Proof.Machine

namespace Sys2Proof.Machine

/-! ## What an action presents -/

/-- Only a platform access is refused (R206). -/
theorem presents_eq_error_iff {op : HostOp} {r : Refusal} :
    op.presents = .error r ↔ ∃ acc, op = .platform acc ∧ acc.toTxn = .error r := by
  cases op with
  | platform acc =>
    cases htxn : acc.toTxn with
    | error r' => simp [HostOp.presents, htxn, Except.map]
    | ok T => simp [HostOp.presents, htxn, Except.map]
  | _ => simp [HostOp.presents]

/-- Only IDLE presents no transaction (R201). -/
theorem eq_idle_of_presents_none {op : HostOp} (h : op.presents = .ok none) : op = .idle := by
  cases op with
  | idle => rfl
  | platform acc => cases htxn : acc.toTxn <;> simp [HostOp.presents, htxn, Except.map] at h
  | _ => simp [HostOp.presents] at h

/-- A platform access that is not refused is one of 32 bits at a register of the block (R204, R206). -/
theorem toTxn_eq_ok_iff {acc : PlatformAccess} {T : TWord} :
    acc.toTxn = .ok T ↔ acc.bytes = 4 ∧ ∃ i : RegAddr, acc.byteAddr = Config.shaBase + 4 * i.toNat ∧
      T = TWord.make acc.we i (if acc.we then acc.data else 0) := by
  constructor
  · intro h
    unfold PlatformAccess.toTxn at h
    generalize (if acc.we then acc.data else 0) = data at h ⊢
    split_ifs at h with hbytes hrange halign
    cases h
    have hindex : (BitVec.ofNat 6 ((acc.byteAddr - Config.shaBase) / 4)).toNat =
        (acc.byteAddr - Config.shaBase) / 4 := Nat.mod_eq_of_lt (by omega)
    exact ⟨not_not.mp hbytes, _, by rw [hindex]; omega, rfl⟩
  · rintro ⟨hbytes, i, haddr, rfl⟩
    have hi := i.isLt
    have hindex : (acc.byteAddr - Config.shaBase) / 4 = i.toNat := by omega
    rw [PlatformAccess.toTxn, if_neg (not_not.mpr hbytes), if_neg (by omega), if_neg (by omega), hindex,
      BitVec.ofNat_toNat, BitVec.setWidth_eq]

/-! ## Steps -/

/-- A step answers a next state only where the host's next action is on the bus. -/
theorem onBus_of_step {s t : State} (h : step s = .next t) : ∀ op ∈ s.hostOps.head?, op.onBus := by
  intro op hop
  obtain ⟨rest, ho⟩ := List.head?_eq_some_iff.mp hop
  obtain ⟨txn, hpresents, -⟩ := step_regs h
  exact ⟨txn, presents_cons ho ▸ hpresents⟩

theorem step_eq_refused_iff {s : State} {r : Refusal} :
    step s = .refused r ↔ ∃ acc rest, s.hostOps = .platform acc :: rest ∧ acc.toTxn = .error r := by
  constructor
  · intro h
    cases ho : s.hostOps with
    | nil => cases (step_nil ho).symm.trans h
    | cons op rest =>
      cases hp : op.presents with
      | ok txn => cases (step_cons ho hp).symm.trans h
      | error r' =>
        cases (step_refused ho hp).symm.trans h
        obtain ⟨acc, rfl, herror⟩ := presents_eq_error_iff.mp hp
        exact ⟨acc, rest, rfl, herror⟩
  · rintro ⟨acc, rest, ho, herror⟩
    exact step_refused ho (presents_eq_error_iff.mpr ⟨acc, rfl, herror⟩)

theorem cycleState_of_reset (txn : Option TWord) {s : State} (h : s.rstNow = true) :
    cycleState txn s = resetCycle s := by
  unfold cycleState
  exact if_pos h

/-- The model's counter of reset cycles after a step. -/
theorem resetDraws_of_step {s t : State} {txn : Option TWord} (hp : s.presents = .ok txn) (h : step s = .next t) :
    t.resetDraws = (cycleState txn s).resetDraws := by
  obtain ⟨ho, rfl⟩ | ⟨op, rest, ho, hop⟩ := presents_cases hp
  · cases (step_nil ho).symm.trans h
    rfl
  · cases (step_cons ho hop).symm.trans h
    rw [after_resetDraws, State.dropRst_resetDraws]

theorem cycleState_of_none {s : State} (h : s.rstNow = false) :
    cycleState none s = s.cycled 0 (datapath s.regs) := by
  rw [cycleState, h, if_neg Bool.false_ne_true]
  exact clock_eq_cycled s 0 writeNothing

/-- A step with a transaction is the cycle of the decoded instruction, and the host's bookkeeping. -/
theorem step_txn_eq_clock {s : State} {T : TWord} {rest : List HostOp} (hrst : s.rstNow = false)
    (ho : s.hostOps = .txn T :: rest) :
    step s = .next ((HostOp.txn T).after rest
      (s.clock (instrReadData s.regs (decode T)) (instrHostWrite (decode T))).dropRst) := by
  rw [step_cons ho rfl, cycleState_of_txn T hrst]

/-! ## Table words -/

theorem toNat_mod_two_pow_forty (T : TWord) : T.toNat % 2 ^ 40 = T.toNat :=
  Nat.mod_eq_of_lt (T.isLt.trans (by decide))

theorem tableTWord_toNat (T : TWord) : tableTWord 40 T.toNat = T := by
  rw [tableTWord, toNat_mod_two_pow_forty, BitVec.ofNat_toNat, BitVec.setWidth_eq]

theorem decodeTableWord_toNat (T : TWord) : decodeTableWord 40 T.toNat = some (decode T) := by
  rw [decodeTableWord, toNat_mod_two_pow_forty, decodeBits, if_pos T.isLt, BitVec.ofNat_toNat, BitVec.setWidth_eq]
  rfl

end Sys2Proof.Machine

/-- Settles O9: a step inverts to an action on the bus (`step_regs`), and the only action that presents an error is a
refused platform access (`presents_eq_error_iff`). -/
theorem stepRefusesOnlyPlatformAccesses : Obligations.StepRefusesOnlyPlatformAccesses := by
  unfold Obligations.StepRefusesOnlyPlatformAccesses
  exact fun s => ⟨⟨step_of_onBus, fun ⟨_, h⟩ => onBus_of_step h⟩, fun r => step_eq_refused_iff⟩

/-- Settles O10: a platform access reaches the block exactly as 32 bits at a register (`toTxn_eq_ok_iff`), and then is
the word made of its direction, that register's index and its data. -/
theorem platformAccessReachesRegisterIndex : Obligations.PlatformAccessReachesRegisterIndex := by
  unfold Obligations.PlatformAccessReachesRegisterIndex
  intro acc
  constructor
  · intro T hT
    obtain ⟨hbytes, i, haddr, rfl⟩ := toTxn_eq_ok_iff.mp hT
    refine ⟨hbytes, by rw [haddr, TWord.make_addr], TWord.make_we .., fun hwe => ?_⟩
    rw [TWord.make_wdata, if_pos hwe]
  · intro i hbytes haddr
    exact ⟨_, toTxn_eq_ok_iff.mpr ⟨hbytes, i, haddr, rfl⟩, TWord.make_addr ..⟩

/-- Settles O3: the cycle of a step with `rst = 1` is `resetCycle`, whatever is presented. -/
theorem resetCycleDrivesTheDraw : Obligations.ResetCycleDrivesTheDraw := by
  unfold Obligations.ResetCycleDrivesTheDraw
  intro s hrst hbus
  obtain ⟨t, hstep⟩ := step_of_onBus hbus
  obtain ⟨txn, hpresents, -, hrstIn⟩ := step_regs hstep
  obtain ⟨u, hu, -, hout, -⟩ := step_of_presents hpresents
  cases hu.symm.trans hstep
  have hdraws := resetDraws_of_step hpresents hstep
  rw [cycleState_of_reset txn hrst] at hout hdraws
  refine ⟨t, hstep, ?_, hdraws, hrstIn⟩
  rw [hout, resetCycle_out, Regs.outputs, busy_eq_decide]

/-- Settles O4: a host that presents nothing has no action left or an IDLE action (`eq_idle_of_presents_none`), and the
cycle is the datapath's alone (`cycleState_of_none`). -/
theorem idleCycleRunsOnlyTheDatapath : Obligations.IdleCycleRunsOnlyTheDatapath := by
  unfold Obligations.IdleCycleRunsOnlyTheDatapath
  intro s hrst hpresents
  obtain ⟨ho, -⟩ | ⟨op, rest, ho, hop⟩ := presents_cases hpresents
  · rw [step_nil ho, cycleState_of_none hrst, ho]
    simp [State.dropRst, State.cycled, ho]
  · cases eq_idle_of_presents_none hop
    rw [step_cons ho hop, cycleState_of_none hrst, ho]
    rfl

/-- Settles O5: the step is the cycle of the decoded instruction (`step_txn_eq_clock`), after which the host drops the
action and keeps a read's data. -/
theorem stepRunsTheDecodedInstruction : Obligations.StepRunsTheDecodedInstruction := by
  unfold Obligations.StepRunsTheDecodedInstruction
  intro s T rest hrst ho
  refine ⟨_, _, exec_eq_clock (decode T) s, step_txn_eq_clock hrst ho, after_regs .., after_out .., after_resetDraws ..,
    ?_, after_rstIn .., ?_⟩
  · simp only [HostOp.after]
    split <;> rfl
  · simp only [HostOp.after]
    split <;> rfl

/-- Settles O6: the low 40 bits of a transaction word are the word (`tableTWord_toNat`), which the step presents with
`rst = 0`. -/
theorem fetchedTableWordRunsNext : Obligations.FetchedTableWordRunsNext := by
  unfold Obligations.FetchedTableWordRunsNext
  intro s T
  have hfetch : s.withFetchWord 40 T.toNat = s.presentFirst (.txn T) := by rw [State.withFetchWord, tableTWord_toNat]
  refine ⟨decodeTableWord_toNat T, ?_⟩
  rw [hfetch]
  refine ⟨_, _, exec_eq_clock (decode T) s, step_txn_eq_clock rfl rfl, after_regs .., after_out .., ?_, after_rstIn ..⟩
  simp only [HostOp.after]
  split <;> rfl

/-- Settles O7: a POLL presents its read, which writes nothing (`step_poll`). -/
theorem pollRepeatsTheReadUntilItMatches : Obligations.PollRepeatsTheReadUntilItMatches := by
  unfold Obligations.PollRepeatsTheReadUntilItMatches
  intro s reg mask val rest hrst ho
  obtain ⟨u, hstep, hregs, hout, hkept, hrstIn, hops⟩ := step_poll ho hrst
  have hread : instrHostWrite (decode (readWord reg.index)) = writeNothing :=
    instrHostWrite_decode_of_read (TWord.make_we ..)
  refine ⟨_, u, exec_eq_clock _ s, hstep, ?_, hout, hkept, hrstIn, hops⟩
  rw [hregs]
  exact (congrArg (fun write : HostWrite => write s.regs (datapath s.regs)) hread).symm

end

section
/-! PROOFS of the logic functions' algebra and of the constants (41_logic_functions.md sections 4 and 5). -/

open Sys2Proof Sys2Proof.Machine

namespace Sys2Proof.Machine

/-! ## Linearity (R511) -/

theorem rotr_xor (x y : Word) {n : Nat} (hn : n < 32) : rotr (x ^^^ y) n = rotr x n ^^^ rotr y n :=
  BitVec.eq_of_getLsbD_eq fun i hi => by
    rw [BitVec.getLsbD_xor, getLsbD_rotr _ hn hi, getLsbD_rotr _ hn hi, getLsbD_rotr _ hn hi, BitVec.getLsbD_xor]

theorem shr_xor (x y : Word) (n : Nat) : shr (x ^^^ y) n = shr x n ^^^ shr y n :=
  BitVec.ushiftRight_xor_distrib x y n

/-- An XOR of three linear functions is linear. -/
theorem xor_three_xor (a b c a' b' c' : Word) :
    (a ^^^ a') ^^^ (b ^^^ b') ^^^ (c ^^^ c') = (a ^^^ b ^^^ c) ^^^ (a' ^^^ b' ^^^ c') := by ac_rfl

theorem bsig0_xor (x y : Word) : bsig0 (x ^^^ y) = bsig0 x ^^^ bsig0 y := by
  simp only [bsig0, rotr_xor, Nat.reduceLT, xor_three_xor]

theorem bsig1_xor (x y : Word) : bsig1 (x ^^^ y) = bsig1 x ^^^ bsig1 y := by
  simp only [bsig1, rotr_xor, Nat.reduceLT, xor_three_xor]

theorem ssig0_xor (x y : Word) : ssig0 (x ^^^ y) = ssig0 x ^^^ ssig0 y := by
  simp only [ssig0, rotr_xor, shr_xor, Nat.reduceLT, xor_three_xor]

theorem ssig1_xor (x y : Word) : ssig1 (x ^^^ y) = ssig1 x ^^^ ssig1 y := by
  simp only [ssig1, rotr_xor, shr_xor, Nat.reduceLT, xor_three_xor]

/-! ## The primes and the roots (R520 to R522) -/

/-- Below 18^2 a number is prime when no number from 2 to 17 whose square it reaches divides it. -/
theorem prime_iff_of_lt {p : Nat} (hp : p < 18 ^ 2) : p.Prime ↔ 2 ≤ p ∧ ∀ k < 18, 2 ≤ k → k * k ≤ p → ¬ k ∣ p := by
  rw [Nat.prime_def_le_sqrt]
  refine and_congr_right fun _ => ⟨fun h k _ hk hsq => h k hk (Nat.le_sqrt.mpr hsq), fun h k hk hsqrt => ?_⟩
  exact h k ((hsqrt.trans_lt (Nat.sqrt_lt'.mpr hp))) hk (Nat.le_sqrt.mp hsqrt)

theorem le_of_mem_primes : ∀ p ∈ primes, p ≤ 311 := by decide

/-- The table against the test of `prime_iff_of_lt`. -/
theorem mem_primes_iff_of_lt :
    ∀ p < 312, p ∈ primes ↔ 2 ≤ p ∧ ∀ k < 18, 2 ≤ k → k * k ≤ p → ¬ k ∣ p := by decide +kernel

theorem mem_primes_iff (p : Nat) : p ∈ primes ↔ p.Prime ∧ p ≤ 311 := by
  have htest (hp : p ≤ 311) : p ∈ primes ↔ p.Prime := by
    rw [mem_primes_iff_of_lt p (Nat.lt_succ_of_le hp), prime_iff_of_lt (by omega)]
  exact ⟨fun h => ⟨(htest (le_of_mem_primes p h)).mp h, le_of_mem_primes p h⟩,
    fun ⟨hprime, hp⟩ => (htest hp).mpr hprime⟩

/-- A word below an integer part is the fraction's first 32 bits. -/
theorem toNat_eq_mod (w : Word) (q : Nat) : w.toNat = (q * 2 ^ 32 + w.toNat) % 2 ^ 32 := by
  rw [Nat.mul_add_mod', Nat.mod_eq_of_lt w.isLt]

/-- IV[i] below the integer part of the root is the scaled square root, rounded down. -/
theorem iv_root_bounds : ∀ i : Fin 8, ∃ q < 5,
    (q * 2 ^ 32 + iv[i].toNat) ^ 2 ≤ primes.getD i 0 * 2 ^ 64 ∧
      primes.getD i 0 * 2 ^ 64 < (q * 2 ^ 32 + iv[i].toNat + 1) ^ 2 := by decide +kernel

/-- K[t] below the integer part of the root is the scaled cube root, rounded down. -/
theorem kAt_root_bounds : ∀ t < 64, ∃ q < 7,
    (q * 2 ^ 32 + (kAt t).toNat) ^ 3 ≤ primes.getD t 0 * 2 ^ 96 ∧
      primes.getD t 0 * 2 ^ 96 < (q * 2 ^ 32 + (kAt t).toNat + 1) ^ 3 := by decide +kernel

end Sys2Proof.Machine

/-- Settles O22: each sigma is an XOR of rotations and shifts, which are linear bit by bit; Ch and Maj take a 1 from two
operands that each alone give 0. -/
theorem sigmaFunctionsAreLinear : Obligations.SigmaFunctionsAreLinear := by
  unfold Obligations.SigmaFunctionsAreLinear
  refine ⟨?_, fun h => ?_, fun h => ?_⟩
  · simp only [List.forall_mem_cons]
    exact ⟨⟨by decide, bsig0_xor⟩, ⟨by decide, bsig1_xor⟩, ⟨by decide, ssig0_xor⟩, ⟨by decide, ssig1_xor⟩, by simp⟩
  · exact absurd (h 1 0 0 0 1 0) (by decide)
  · exact absurd (h 1 0 0 0 1 0) (by decide)

/-- Settles O23: the table is checked against trial division (`mem_primes_iff`), and each constant below its root's
integer part is the root of the scaled prime, rounded down. -/
theorem constantsAreRootsOfPrimes : Obligations.ConstantsAreRootsOfPrimes := by
  unfold Obligations.ConstantsAreRootsOfPrimes
  refine ⟨⟨by decide, by decide, mem_primes_iff⟩, fun i => ?_, fun t ht => ?_⟩
  · obtain ⟨q, -, hle, hlt⟩ := iv_root_bounds i
    exact ⟨_, hle, hlt, toNat_eq_mod iv[i] q⟩
  · obtain ⟨q, -, hle, hlt⟩ := kAt_root_bounds t ht
    exact ⟨_, hle, hlt, toNat_eq_mod (kAt t) q⟩

end

section
/-! PROOFS of what a transaction changes and what it leaves (20_memory.md section 5, 44_commands.md, 10_state.md
section 1, 60_exceptions.md): commands accepted and rejected, register by register, and what does not reach what. -/

open Sys2Proof Sys2Proof.Machine

namespace Sys2Proof

/-- A reserved command is one of the two reserved rows. -/
theorem Instr.isReservedCommand_cases {i : Instr} (h : i.isReservedCommand) :
    (∃ op r, i = .cmdRsvd4 op r) ∨ ∃ op r, i = .cmdRsvd8 op r := by
  cases i with
  | cmdRsvd4 op r => exact .inl ⟨op, r, rfl⟩
  | cmdRsvd8 op r => exact .inr ⟨op, r, rfl⟩
  | _ => simp [Instr.isReservedCommand, Instr.row] at h

/-- The indices 0x10 to 0x1F are those of the MSG words (R203). -/
theorem exists_msgAddr_eq : ∀ a : RegAddr, 0x10 ≤ a.toNat → a.toNat ≤ 0x1F → ∃ i, a = msgAddr i := by decide

@[simp] theorem encodeCommand_we (op : BitVec 4) (r : BitVec 28) : (encodeCommand op r).we = true := TWord.make_we ..

@[simp] theorem encodeCommand_addr (op : BitVec 4) (r : BitVec 28) : (encodeCommand op r).addr = 0x02 :=
  TWord.make_addr ..

@[simp] theorem encodeCommand_wdata_and (op : BitVec 4) (r : BitVec 28) :
    (encodeCommand op r).wdata &&& 0xF = commandWord op 0 := by
  rw [encodeCommand, encodeWrite, TWord.make_wdata, and_fifteen_eq_commandWord, commandOp_commandWord]

end Sys2Proof

namespace Sys2Proof.Machine

/-! ## Rejected commands (R804, R805, R808) -/

/-- The cycle rejects the instruction: a command that tests the phase while busy, or a reserved command. -/
def rejects (i : Instr) (S : Regs) : Prop := (i.testsPhase ∧ S.phase ≠ .idle) ∨ i.isReservedCommand

theorem exec_of_rejects {i : Instr} {s : State} (h : rejects i s.regs) :
    exec i s = .next (s.cycled 0 { datapath s.regs with err := true }) := by
  obtain ⟨htests, hbusy⟩ | hreserved := h
  · exact exec_testsPhase_of_busy htests hbusy
  · obtain ⟨op, r, rfl⟩ | ⟨op, r, rfl⟩ := i.isReservedCommand_cases hreserved
    · exact exec_of_setErr rfl rfl
    · exact exec_of_setErr rfl rfl

/-! ## MSG and ERR -/

/-- Only WR_MSG changes MSG (R103, R911). -/
theorem eq_wrMsg_of_msgAfter_ne {i : Instr} {msg : Vector Word 16} (h : msgAfter i msg ≠ msg) :
    ∃ k d, i = .wrMsg k d := by
  cases i with
  | wrMsg k d => exact ⟨k, d, rfl⟩
  | _ => exact absurd rfl h

/-- Writing the word that MSG[i] holds changes nothing (R209). -/
theorem setMsgWord_of_eq {S : Regs} {i : BitVec 4} {d : Word} (h : S.msg[i.toNat] = d) : S.setMsgWord i d = S := by
  rw [Regs.setMsgWord, ← h, Vector.set_getElem_self]

theorem errAfter_of_rejects {i : Instr} {S : Regs} (h : rejects i S) (err : Bool) : errAfter i S.phase err = true := by
  obtain ⟨htests, hbusy⟩ | hreserved := h
  · obtain ⟨r, rfl⟩ | ⟨r, rfl⟩ | ⟨r, rfl⟩ := i.testsPhase_cases htests
    · exact if_neg hbusy
    · exact if_neg hbusy
    · exact if_neg hbusy
  · obtain ⟨op, r, rfl⟩ | ⟨op, r, rfl⟩ := i.isReservedCommand_cases hreserved
    · rfl
    · rfl

/-- An instruction that is not rejected and clears no error leaves ERR (R1101, R1103). -/
theorem errAfter_of_not_rejects {i : Instr} {S : Regs} (h : ¬ rejects i S)
    (hclear : ¬ ∃ d, i = .wrStatus d ∧ d.getLsbD 2 = true) (err : Bool) : errAfter i S.phase err = err := by
  have hidle (htests : i.testsPhase) : S.phase = .idle := not_not.mp fun hbusy => h (.inl ⟨htests, hbusy⟩)
  cases i with
  | cmdInit r => exact if_pos (hidle (.inl rfl))
  | cmdNext r => exact if_pos (hidle (.inr (.inl rfl)))
  | cmdFirst r => exact if_pos (hidle (.inr (.inr rfl)))
  | cmdRsvd4 op r => exact absurd (.inr (.inl rfl)) h
  | cmdRsvd8 op r => exact absurd (.inr (.inr rfl)) h
  | wrStatus d => exact if_neg fun hd => hclear ⟨d, rfl, hd⟩
  | _ => rfl

/-- The busy test does not look at ERR, so what an accepted command does with it shows in no other register. -/
theorem testBusy_with_err {f : Regs → Regs}
    (hf : ∀ (S : Regs) (e : Bool), f { S with err := e } = { f S with err := e })
    (S S1 : Regs) (e e' : Bool) :
    { testBusy f { S with err := e } { S1 with err := e } with err := e' } = { testBusy f S S1 with err := e' } := by
  by_cases hidle : S.phase = .idle
  · rw [testBusy_of_idle f S1 hidle, testBusy_of_idle f _ (S := { S with err := e }) hidle, hf]
  · rw [testBusy_of_busy f S1 hidle, testBusy_of_busy f _ (S := { S with err := e }) hidle]
    rfl

/-- No host write reads ERR (R1103): two states that differ only in it differ at most in it afterwards. -/
theorem instrHostWrite_with_err (i : Instr) (S S1 : Regs) (e e' : Bool) :
    { instrHostWrite i { S with err := e } { S1 with err := e } with err := e' } =
      { instrHostWrite i S S1 with err := e' } := by
  cases i with
  | cmdInit r => exact testBusy_with_err (fun _ _ => rfl) S S1 e e'
  | cmdNext r => exact testBusy_with_err (f := fun S => startCompression S.hash S) (fun _ _ => rfl) S S1 e e'
  | cmdFirst r => exact testBusy_with_err (f := fun S => startCompression iv (loadIv S)) (fun _ _ => rfl) S S1 e e'
  | wrStatus d => rw [wrStatus_write, wrStatus_write]
  | _ => rfl

/-! ## VALID (R107) -/

/-- A host write that accepts no command leaves VALID. -/
theorem instrHostWrite_valid_of_not_testsPhase {i : Instr} (h : ¬ i.testsPhase) (S S1 : Regs) :
    (instrHostWrite i S S1).valid = S1.valid := by
  cases i with
  | cmdInit r => exact absurd (.inl rfl) h
  | cmdNext r => exact absurd (.inr (.inl rfl)) h
  | cmdFirst r => exact absurd (.inr (.inr rfl)) h
  | wrStatus d => rw [wrStatus_write]
  | _ => rfl

theorem instrHostWrite_valid_of_busy (i : Instr) {S : Regs} (S1 : Regs) (h : S.phase ≠ .idle) :
    (instrHostWrite i S S1).valid = S1.valid := by
  rw [instrHostWrite_eq_of_busy i S1 h]

/-- While VALID stays set in the invariant, HASH stays: VALID says that the block is idle, and INIT and FIRST would
clear it. -/
theorem hash_of_valid_kept {i : Instr} {S : Regs} (hinv : S.Inv) (hvalid : S.valid = true)
    (hkept : (instrHostWrite i S (datapath S)).valid = true) :
    (instrHostWrite i S (datapath S)).hash = S.hash := by
  have hidle : S.phase = .idle := not_not.mp fun hbusy => by simp [hinv.busy_not_valid hbusy] at hvalid
  have hno : ¬ i.testsPhase := fun htests => by
    obtain ⟨-, hcleared, -⟩ := write_testsPhase_of_idle htests hidle
    simp [hcleared] at hkept
  obtain hhash | ⟨-, hinit | hfirst⟩ := instrHostWrite_hash_of_idle i (datapath S) hidle
  · rw [hhash, datapath_of_idle hidle]
  · exact absurd (.inl hinit) hno
  · exact absurd (.inr (.inr hfirst)) hno

/-! ## Slots (R203, R908) -/

/-- A slot that reads otherwise in other registers is STATUS, a MSG word or a DIGEST word. -/
theorem readValue_ne_cases {S S' : Regs} {a : RegAddr}
    (h : readValue S' (some (readWord a)) ≠ readValue S (some (readWord a))) :
    (a = 0x03 ∧ S'.statusWord ≠ S.statusWord) ∨ (∃ i, a = msgAddr i ∧ S'.msgWord i ≠ S.msgWord i) ∨
      ∃ i, a = digestAddr i ∧ S'.digestWord i ≠ S.digestWord i := by
  rw [readWord, ← instrReadData_decodeRead, ← instrReadData_decodeRead] at h
  obtain rfl | rfl | rfl | rfl | ha | ha | ⟨k, rfl⟩ | ⟨k, rfl⟩ | ha | ha := addr_cases a
  · exact absurd rfl h
  · exact absurd rfl h
  · exact absurd rfl h
  · exact .inl ⟨rfl, h⟩
  · rw [decodeRead_rsvd04 ha] at h; exact absurd rfl h
  · rw [decodeRead_rsvd08 ha] at h; exact absurd rfl h
  · rw [decodeRead_msg] at h; exact .inr (.inl ⟨k, rfl, h⟩)
  · rw [decodeRead_digest] at h; exact .inr (.inr ⟨k, rfl, h⟩)
  · rw [decodeRead_rsvd28 ha] at h; exact absurd rfl h
  · rw [decodeRead_rsvd30 ha] at h; exact absurd rfl h

/-- Only writes to CTRL and to STATUS change what STATUS shows. -/
theorem addr_of_statusWord_ne {i : Instr} {S : Regs} (h : (instrHostWrite i S S).statusWord ≠ S.statusWord) :
    (encode i).we = true ∧ ((encode i).addr = 0x02 ∨ (encode i).addr = 0x03) := by
  cases i with
  | cmdNop r => exact absurd rfl h
  | cmdInit r => exact ⟨encodeCommand_we .., .inl (encodeCommand_addr ..)⟩
  | cmdNext r => exact ⟨encodeCommand_we .., .inl (encodeCommand_addr ..)⟩
  | cmdFirst r => exact ⟨encodeCommand_we .., .inl (encodeCommand_addr ..)⟩
  | cmdRsvd4 op r => exact ⟨encodeCommand_we .., .inl (encodeCommand_addr ..)⟩
  | cmdRsvd8 op r => exact ⟨encodeCommand_we .., .inl (encodeCommand_addr ..)⟩
  | wrStatus d => exact ⟨TWord.make_we .., .inr (TWord.make_addr ..)⟩
  | _ => exact absurd rfl h

/-- Only WR_MSG changes a MSG word, the one it names. -/
theorem addr_of_msgWord_ne {i : Instr} {S : Regs} {k : BitVec 4} (h : (instrHostWrite i S S).msgWord k ≠ S.msgWord k) :
    (encode i).we = true ∧ (encode i).addr = msgAddr k := by
  have hmsg : msgAfter i S.msg ≠ S.msg := fun hsame => h (by
    rw [Regs.msgWord, Regs.msgWord]
    simp only [instrHostWrite_msg, hsame])
  obtain ⟨j, d, rfl⟩ := eq_wrMsg_of_msgAfter_ne hmsg
  have hword : (instrHostWrite (.wrMsg j d) S S).msgWord k = if k = j then d else S.msgWord k :=
    getElem_setMsgWord_msg S j k d
  obtain rfl : k = j := not_not.mp fun hne => h (by rw [hword, if_neg hne])
  exact ⟨TWord.make_we .., TWord.make_addr ..⟩

/-- From an idle state only INIT and FIRST change a DIGEST word. -/
theorem command_of_digestWord_ne {i : Instr} {S : Regs} {k : BitVec 3} (hidle : S.phase = .idle)
    (h : (instrHostWrite i S S).digestWord k ≠ S.digestWord k) :
    (encode i).we = true ∧ (encode i).addr = 0x02 ∧
      ((encode i).wdata &&& 0xF = 1 ∨ (encode i).wdata &&& 0xF = 3) := by
  obtain hhash | ⟨-, hrow⟩ := instrHostWrite_hash_of_idle i S hidle
  · exact absurd (by rw [Regs.digestWord, Regs.digestWord]; simp only [hhash]) h
  · obtain ⟨r, rfl⟩ | ⟨r, rfl⟩ | ⟨r, rfl⟩ := i.testsPhase_cases (hrow.imp_right .inr)
    · exact ⟨encodeCommand_we .., encodeCommand_addr .., .inl (encodeCommand_wdata_and 0x1 r)⟩
    · simp [Instr.row] at hrow
    · exact ⟨encodeCommand_we .., encodeCommand_addr .., .inr (encodeCommand_wdata_and 0x3 r)⟩

end Sys2Proof.Machine

/-- Settles O30: NEXT is the busy test before the start of a compression from HASH (`cmdNext_write_of_idle`). -/
theorem nextStartsACompressionOrIsRejected : Obligations.NextStartsACompressionOrIsRejected := by
  unfold Obligations.NextStartsACompressionOrIsRejected
  intro r s
  refine ⟨?_, fun hidle => ?_, fun hbusy => ?_⟩
  · exact (decode_ctrlWrite 0x2 r).trans (decodeCommand_next r)
  · rw [exec_eq_cycled, cmdNext_write_of_idle r _ hidle, datapath_of_idle hidle]
    rfl
  · exact exec_testsPhase_of_busy (.inr (.inl rfl)) hbusy

/-- Settles O31: FIRST is the busy test before loading IV and starting a compression from it
(`cmdFirst_write_of_idle`). -/
theorem firstStartsFromIvOrIsRejected : Obligations.FirstStartsFromIvOrIsRejected := by
  unfold Obligations.FirstStartsFromIvOrIsRejected
  intro r s
  refine ⟨?_, fun hidle => ?_, fun hbusy => ?_⟩
  · exact (decode_ctrlWrite 0x3 r).trans (decodeCommand_first r)
  · rw [exec_eq_cycled, cmdFirst_write_of_idle r _ hidle, datapath_of_idle hidle]
    rfl
  · exact exec_testsPhase_of_busy (.inr (.inr rfl)) hbusy

/-- Settles O33: the cycle of a rejected command is an idle cycle's with ERR set (`exec_of_rejects`). -/
theorem rejectedCommandChangesOnlyErr : Obligations.RejectedCommandChangesOnlyErr := by
  unfold Obligations.RejectedCommandChangesOnlyErr
  intro i s hrejects
  exact ⟨_, exec_of_rejects hrejects, rfl, rfl, rfl, rfl, rfl, rfl, rfl, rfl⟩

/-- Settles O40: reads and ignored writes have no host write, and a MSG word that is written again holds the word
already (`setMsgWord_of_eq`). -/
theorem readsAndIgnoredWritesHaveNoSideEffect : Obligations.ReadsAndIgnoredWritesHaveNoSideEffect := by
  unfold Obligations.ReadsAndIgnoredWritesHaveNoSideEffect
  refine ⟨fun T s hread => ?_, fun T s hwe hlow hhigh => ?_, fun T s hwe hctrl hstatus hmsg => ?_⟩
  · exact ⟨_, exec_of_writeNothing rfl (instrHostWrite_decode_of_read hread), rfl⟩
  · obtain ⟨i, hi⟩ := exists_msgAddr_eq T.addr hlow hhigh
    have hdecode : decode T = .wrMsg i T.wdata := by rw [decode_of_write hwe, hi, decodeWrite_msg]
    rw [hdecode]
    refine ⟨_, _, exec_eq_clock _ s, exec_eq_clock _ _, setMsgWord_of_eq ?_⟩
    simp only [datapath_msg]
    exact (getElem_setMsgWord_msg (datapath s.regs) i i T.wdata).trans (if_pos rfl)
  · refine ⟨_, exec_eq_clock (decode T) s, ?_⟩
    have hignored := hostWrite_ignored s.regs (datapath s.regs) T.wdata hctrl hstatus hmsg
    rw [← hwe, TWord.make_fields] at hignored
    rw [State.clock_regs, instrHostWrite_decode datapath_of_idle, hignored, idleCycle_regs]

/-- Settles O41: a slot that reads otherwise is STATUS, a MSG word or a DIGEST word (`readValue_ne_cases`), and each of
the three is changed by its own transactions alone; the word is the encoding of its instruction. -/
theorem transactionChangesOnlyItsOwnSlot : Obligations.TransactionChangesOnlyItsOwnSlot := by
  unfold Obligations.TransactionChangesOnlyItsOwnSlot
  intro T s t a hidle hexec hne
  rw [regs_of_exec hexec, datapath_of_idle hidle] at hne
  obtain ⟨ha, hstatus⟩ | ⟨k, ha, hmsg⟩ | ⟨k, ha, hdigest⟩ := readValue_ne_cases hne
  · have hwrite := addr_of_statusWord_ne hstatus
    rw [encode_decode] at hwrite
    obtain ⟨hwe, haddr⟩ := hwrite
    exact ⟨hwe, .inr (.inl ⟨ha, haddr⟩)⟩
  · have hwrite := addr_of_msgWord_ne hmsg
    rw [encode_decode] at hwrite
    obtain ⟨hwe, haddr⟩ := hwrite
    have hk := k.isLt
    refine ⟨hwe, .inl ⟨ha.trans haddr.symm, ?_⟩⟩
    rw [ha, toNat_msgAddr]
    omega
  · have hwrite := command_of_digestWord_ne hidle hdigest
    rw [encode_decode] at hwrite
    obtain ⟨hwe, haddr, hop⟩ := hwrite
    have hk := k.isLt
    refine ⟨hwe, .inr (.inr ⟨?_, ?_, haddr, hop⟩)⟩
    · rw [ha, toNat_digestAddr]; omega
    · rw [ha, toNat_digestAddr]; omega

/-- Settles O43: without reset MSG after a cycle is what the host's write leaves (`instrHostWrite_msg`), which only
WR_MSG changes. -/
theorem msgIsWrittenOnlyByTheHost : Obligations.MsgIsWrittenOnlyByTheHost := by
  unfold Obligations.MsgIsWrittenOnlyByTheHost
  intro s t hstep hne
  obtain ⟨txn, hpresents, hregs, -⟩ := step_regs hstep
  cases hrst : s.rstNow with
  | true => exact .inl ⟨rfl, by rw [hregs, hrst]; rfl⟩
  | false =>
    rw [hrst] at hregs
    cases txn with
    | none => exact absurd (by rw [hregs]; exact datapath_msg s.regs) hne
    | some T =>
      have hmsg : t.regs.msg = msgAfter (decode T) s.regs.msg := by
        rw [hregs, ← datapath_msg s.regs]
        exact instrHostWrite_msg (decode T) s.regs (datapath s.regs)
      rw [hmsg] at hne
      obtain ⟨op, hop, hT⟩ := presents_some hpresents
      obtain ⟨k, d, hdecode⟩ := eq_wrMsg_of_msgAfter_ne hne
      exact .inr ⟨rfl, op, T, k, d, hop, hT, hdecode, by rw [hmsg, hdecode]; rfl⟩

/-- Settles O44: while busy VALID is the datapath's, which FINAL sets; while idle an accepted command clears it and
everything else leaves it; HASH by `hash_of_valid_kept`. -/
theorem validIsSetByFinalAndClearedByCommands : Obligations.ValidIsSetByFinalAndClearedByCommands := by
  unfold Obligations.ValidIsSetByFinalAndClearedByCommands
  intro i s
  refine ⟨_, exec_eq_clock i s, fun hfinal => ?_, fun hidle htests => ?_, fun hnotFinal hno => ?_,
    fun hinv hvalid hkept => hash_of_valid_kept hinv hvalid hkept⟩
  · rw [State.clock_regs, instrHostWrite_valid_of_busy i _ (by simp [hfinal]), datapath_of_final hfinal,
      finalCycle_valid]
  · obtain ⟨-, hvalid, -⟩ := write_testsPhase_of_idle htests hidle
    exact hvalid
  · rw [State.clock_regs]
    cases hphase : s.regs.phase with
    | idle =>
      rw [instrHostWrite_valid_of_not_testsPhase (fun htests => hno ⟨hphase, htests⟩), datapath_of_idle hphase]
    | round =>
      rw [instrHostWrite_valid_of_busy i _ (by simp [hphase]), datapath_of_round hphase, roundCycle_valid]
    | final => exact absurd hphase hnotFinal

/-- Settles O45: ERR after a cycle is `errAfter`, which is 1 for a rejected command, 0 for a clearing STATUS write and
the old value otherwise; neither the datapath nor a host write reads ERR. -/
theorem errIsSetAndClearedByExactlyTheseEvents : Obligations.ErrIsSetAndClearedByExactlyTheseEvents := by
  unfold Obligations.ErrIsSetAndClearedByExactlyTheseEvents
  intro i s
  have herr : (instrHostWrite i s.regs (datapath s.regs)).err = errAfter i s.regs.phase s.regs.err := by
    rw [instrHostWrite_err, datapath_err]
  refine ⟨_, exec_eq_clock i s, fun h => ?_, ?_, fun h hclear => ?_, fun e => ⟨_, exec_eq_clock i _, ?_⟩⟩
  · exact herr.trans (errAfter_of_rejects h _)
  · rintro ⟨d, rfl, hd⟩
    exact herr.trans (if_pos hd)
  · exact herr.trans (errAfter_of_not_rejects h hclear _)
  · simp only [State.clock_regs, datapath_with_err, instrHostWrite_with_err]

/-- Settles O47: while busy the cycle is the datapath's, which does not read MSG, and a host write to MSG and ERR
(`instrHostWrite_eq_of_busy`). -/
theorem msgDoesNotReachARunningCompression : Obligations.MsgDoesNotReachARunningCompression := by
  unfold Obligations.MsgDoesNotReachARunningCompression
  intro i s M hbusy
  have hbusy' : ({ s.regs with msg := M } : Regs).phase ≠ .idle := hbusy
  refine ⟨_, _, exec_eq_clock i s, exec_eq_clock i _, ?_⟩
  simp only [State.clock_regs, datapath_with_msg, instrHostWrite_eq_of_busy i _ hbusy,
    instrHostWrite_eq_of_busy i _ hbusy']

/-- Settles O48: the read data of every instruction, BUSY and VALID are taken from HASH, MSG, phase, VALID and ERR. -/
theorem internalRegistersAreNotReadable : Obligations.InternalRegistersAreNotReadable := by
  unfold Obligations.InternalRegistersAreNotReadable
  intro i s v win n
  have hread : instrReadData { s.regs with work := v, win := win, t := n } i = instrReadData s.regs i := by
    cases i <;> rfl
  refine ⟨_, _, exec_eq_clock i s, exec_eq_clock i _, ?_⟩
  rw [State.clock_out, State.clock_out, hread]
  rfl

end
